-- ==== Sys2Proof/Word.lean ====
section
/-! DEFINITION. The word types (00_scope.md R7): unsigned integers of 8, 16 and 32 bits. There is no
signed quantity in this hardware. The byte-order helpers of R7 are in Machine/Operands.lean. -/

namespace Sys2Proof

/-- A byte on the bus, an element of a byte payload, a command byte (R7). -/
abbrev U8 := BitVec 8

/-- A coordinate, extent, colour, offset or size (R7; widths are decision D5). -/
abbrev U16 := BitVec 16

/-- The argument of a delay, in microseconds (R170, D5). -/
abbrev U32 := BitVec 32

end Sys2Proof
end

