-- ==== Sys2Proof/Syntax.lean ====
section
/-! DEFINITION. The instructions: one constructor of `Instr` per row of spec/opcode_table.json, the
operand types they carry, and the two encoded forms (formats REQ and CMD8) the decoder reads. -/

namespace Sys2Proof

/-- The four orientations (10_state.md R12): Portrait, Landscape, PortraitSwapped, LandscapeSwapped. -/
inductive Orientation where
  | o0 | o1 | o2 | o3
deriving DecidableEq, Repr, Inhabited

/-- The tearing mode of SET_TEARING_EFFECT (30_encoding.md R53). Code 3 is reserved (R59): the
decoder, `WellFormed` and the meaning each refuse it by name. -/
inductive TearingMode where
  | off | vertical | horizontalAndVertical | reserved
deriving DecidableEq, Repr, Inhabited

/-- The operand of SET_BACKLIGHT (30_encoding.md R53). -/
inductive BacklightState where
  | off | on
deriving DecidableEq, Repr, Inhabited

/-- A payload: a finite list of `u8` or of `u16` (20_memory.md R30). Whether it is a slice or an
iterator is fixed by the operation or the source format, not by the data. -/
inductive Payload where
  | bytes (p : List U8)
  | halves (p : List U16)
deriving DecidableEq, Repr, Inhabited

/-- The encoder's input: a source format of 30_encoding.md R54 together with a payload of the
element type the format fixes (a mismatch cannot be written down, R59). -/
inductive Source where
  | u8 (p : List U8)            -- fmt 0, slice
  | u16 (p : List U16)          -- fmt 1, slice, native order
  | u16be (p : List U16)        -- fmt 2, slice, converted in place
  | u16le (p : List U16)        -- fmt 3, slice, converted in place
  | u8Iter (p : List U8)        -- fmt 4, iterator through buf8
  | u16beIter (p : List U16)    -- fmt 5, iterator through buf16
  | u16leIter (p : List U16)    -- fmt 6, iterator through buf16
  | unsupported (p : Payload)   -- fmt 7, any payload, never read
deriving DecidableEq, Repr, Inhabited

/-- The mnemonics of the controller's command bytes (30_encoding.md R58), the keys of OPC. -/
inductive Command where
  | nop | swreset | slpin | slpout | ptlon | noron | invoff | invon
  | dispoff | dispon | caset | raset | ramwr | ptlar | vscrder | teoff
  | teon | madctl | vscad | colmod | porctrl | gctrl | vcoms | lcmctrl
  | vdvvrhen | vrhs | vdvs | vcmofset | frctrl2 | pwctrl1 | pvgamctrl | nvgamctrl
deriving DecidableEq, Repr, Inhabited

/-- The instructions: the twelve requests of 30_encoding.md R52 (operands as R53 decodes them, the
payload beside them as R50 allows) and the thirty-two command bytes of R58, each of which stands for
the command transmission of its byte (entry 1 of the assumption log). -/
inductive Instr where
  -- requests (format REQ)
  | init
  | setOrientation (o : Orientation)
  | setAddressWindow (sx sy ex ey : U16)
  | setPixel (x y color : U16)
  | setPixels (sx sy ex ey : U16) (colors : List U16)
  | blitPixels (sx sy dx dy : U16) (data : List U8)
  | setScrollOffset (offset : U16)
  | setTearingEffect (mode : TearingMode)
  | setBacklight (state : BacklightState)
  | release
  | xmitCmd (c : U8)
  | xmitData (src : Source)
  -- controller commands (format CMD8)
  | nop | swreset | slpin | slpout | ptlon | noron | invoff | invon
  | dispoff | dispon | caset | raset | ramwr | ptlar | vscrder | teoff
  | teon | madctl | vscad | colmod | porctrl | gctrl | vcoms | lcmctrl
  | vdvvrhen | vrhs | vdvs | vcmofset | frctrl2 | pwctrl1 | pvgamctrl | nvgamctrl
deriving DecidableEq, Repr, Inhabited

/-- What the host hands to the block. `req` is the 72-bit word REQ with the payload that travels
beside it (30_encoding.md R51). `cmd8` is a row of format CMD8 standing alone: its byte (entry 1). -/
inductive Request where
  | req (word : BitVec 72) (payload : Payload)
  | cmd8 (code : U8)
deriving DecidableEq, Repr, Inhabited

end Sys2Proof
end

