-- ==== Sys2Proof/Config.lean ====
section
/-! DEFINITION. What an implementation fixes (the parameters of 00_scope.md R5, as plain data), the
constants the source fixes, and the free values. -/

namespace Sys2Proof

/-- The opaque error value of a line capability (60_exceptions.md R151, 93 U15): any value of an
abstract type; the model names the values by naturals and never looks at one (entry 5). -/
abbrev PinError := Nat

/-- What the environment answers to one line drive or one bus write (60_exceptions.md R162). For a
bus write the error value is dropped (20_memory.md R34). -/
inductive Answer where
  | ok
  | fail (e : PinError)
deriving DecidableEq, Repr, Inhabited

/-- The error kinds of 60_exceptions.md R151; the set is closed. -/
inductive Err where
  | pin (e : PinError)       -- a drive of RST or BL failed; carries the line's own error value
  | busWriteFailed           -- a bus write failed
  | dcFailed                 -- the data/command drive of a transmission failed
  | csFailed                 -- the chip-select assertion of a transmission failed
  | formatNotImplemented     -- the encoder was given the unsupported source format
deriving DecidableEq, Repr, Inhabited

/-- The host's native byte order (parameter NATIVE_ORDER, D15). -/
inductive ByteOrder where
  | le | be
deriving DecidableEq, Repr, Inhabited

/-- Parameter OFFSET_AXIS (43_addressing.md R121): which of O2, O3 shifts which axis. The source
fixes that the two shift different axes, so there are two values; the first is the default. -/
inductive OffsetAxis where
  | o2ShiftsY_o3ShiftsX
  | o2ShiftsX_o3ShiftsY
deriving DecidableEq, Repr, Inhabited

/-- One step of the register program (42_init.md R103). -/
structure RegStep where
  cmd : U8
  data : List U8
  settleUs : U32
deriving DecidableEq, Repr, Inhabited

/-- The command byte table OPC (30_encoding.md R58), a byte for each mnemonic. -/
structure OpcTable where
  nop : U8
  swreset : U8
  slpin : U8
  slpout : U8
  ptlon : U8
  noron : U8
  invoff : U8
  invon : U8
  dispoff : U8
  dispon : U8
  caset : U8
  raset : U8
  ramwr : U8
  ptlar : U8
  vscrder : U8
  teoff : U8
  teon : U8
  madctl : U8
  vscad : U8
  colmod : U8
  porctrl : U8
  gctrl : U8
  vcoms : U8
  lcmctrl : U8
  vdvvrhen : U8
  vrhs : U8
  vdvs : U8
  vcmofset : U8
  frctrl2 : U8
  pwctrl1 : U8
  pvgamctrl : U8
  nvgamctrl : U8
deriving DecidableEq, Repr

/-- The default byte values of 30_encoding.md R58 (general knowledge, not in the source: D23). -/
def OpcTable.suggested : OpcTable where
  nop := 0x00
  swreset := 0x01
  slpin := 0x10
  slpout := 0x11
  ptlon := 0x12
  noron := 0x13
  invoff := 0x20
  invon := 0x21
  dispoff := 0x28
  dispon := 0x29
  caset := 0x2A
  raset := 0x2B
  ramwr := 0x2C
  ptlar := 0x30
  vscrder := 0x33
  teoff := 0x34
  teon := 0x35
  madctl := 0x36
  vscad := 0x37
  colmod := 0x3A
  porctrl := 0xB2
  gctrl := 0xB7
  vcoms := 0xBB
  lcmctrl := 0xC0
  vdvvrhen := 0xC2
  vrhs := 0xC3
  vdvs := 0xC4
  vcmofset := 0xC5
  frctrl2 := 0xC6
  pwctrl1 := 0xD0
  pvgamctrl := 0xE0
  nvgamctrl := 0xE1

/-- The access-control byte of each orientation, parameter MADCTL_BYTE (43_addressing.md R120). -/
structure MadctlTable where
  o0 : U8
  o1 : U8
  o2 : U8
  o3 : U8
deriving DecidableEq, Repr

/-- The parameters of 00_scope.md R5. They are not state and no request changes them (10_state.md
R21); `State` carries them as a constant field so that every statement quantifies over all of them
(entry 6). -/
structure Params where
  nativeOrder : ByteOrder
  opc : OpcTable
  madctlByte : MadctlTable
  offsetAxis : OffsetAxis
  regProgram : List RegStep
  tRstUs : U32
  tBlUs : U32
  tOn0Us : U32
  tOn1Us : U32
  tOn2Us : U32
  csReleaseOnAssertFail : Bool
  eBlitLen : Err
deriving DecidableEq, Repr

/-- The suggested values of R5 for every parameter that has one, around a register program, for
which the spec suggests none (42_init.md R107). DESIGN CHOICE, entry 8. -/
def Params.suggested (program : List RegStep) : Params where
  nativeOrder := .le
  opc := OpcTable.suggested
  madctlByte := { o0 := 0x00, o1 := 0x60, o2 := 0xC0, o3 := 0xA0 }
  offsetAxis := .o2ShiftsY_o3ShiftsX
  regProgram := program
  tRstUs := 10000
  tBlUs := 10000
  tOn0Us := 10000
  tOn1Us := 10000
  tOn2Us := 10000
  csReleaseOnAssertFail := true
  eBlitLen := .formatNotImplemented

/-- Elements of the staging buffer of the byte iterator: 32 bytes (R5, 10_state.md R18). -/
def Config.buf8Elems : Nat := 32

/-- Elements of the staging buffer of the 16-bit iterators: 32, that is 64 bytes (R5, R18). -/
def Config.buf16Elems : Nat := 32

/-- The controller's native dimension, 320 lines (R5, 20_memory.md R42). -/
def Config.nativeDim : Nat := 320

/-- FREE VALUE. The environment's answer to the k-th call for which no answer is written down in
State (60_exceptions.md R162: the environment may answer `ok` or `fail` at any time). Entry 4. -/
opaque Config.freeAnswer : Nat → Answer

/-- FREE VALUE. The register program of State.reset: REG_PROGRAM is OPEN with no default (R5, R107,
N5). Entry 8. -/
opaque Config.freeRegProgram : List RegStep

end Sys2Proof
end

