-- ==== Sys2Proof/WellFormed.lean ====
section
/-! DEFINITION. Which instructions are well formed: the one operand value an `Instr` can hold and the
encoding reserves is the tearing mode 3 (30_encoding.md R53, R59). Everything else R59 lists is either
no `Instr` at all (op 0xC to 0xF, a payload of the wrong element type) or legal. -/

namespace Sys2Proof

/-- A tearing mode the spec gives a meaning (30_encoding.md R53). -/
def TearingMode.isLegal : TearingMode → Bool
  | .off => true
  | .vertical => true
  | .horizontalAndVertical => true
  | .reserved => false

/-- The check, as a Bool. -/
def Instr.wellFormed : Instr → Bool
  | .setTearingEffect mode => mode.isLegal
  | .init | .setOrientation _ | .setAddressWindow _ _ _ _ | .setPixel _ _ _
  | .setPixels _ _ _ _ _ | .blitPixels _ _ _ _ _ | .setScrollOffset _ | .setBacklight _
  | .release | .xmitCmd _ | .xmitData _
  | .nop | .swreset | .slpin | .slpout | .ptlon | .noron | .invoff | .invon
  | .dispoff | .dispon | .caset | .raset | .ramwr | .ptlar | .vscrder | .teoff
  | .teon | .madctl | .vscad | .colmod | .porctrl | .gctrl | .vcoms | .lcmctrl
  | .vdvvrhen | .vrhs | .vdvs | .vcmofset | .frctrl2 | .pwctrl1 | .pvgamctrl | .nvgamctrl => true

/-- An instruction whose operands the encoding does not reserve. -/
abbrev WellFormed (i : Instr) : Prop := i.wellFormed = true

end Sys2Proof
end

