-- ==== Sys2Proof/Decode.lean ====
section
/-! DEFINITION. The decoder of both formats of spec/opcode_table.json (REQ: 30_encoding.md R51 to R54;
CMD8: R58), total and rejecting by name; the encoder written from the same tables; and the reading of a
word as the opcode table numbers its bits. -/

namespace Sys2Proof

/-- Why a request does not decode. Each is raised by `decode` and makes the step refuse (safe: the
model stops where the spec gives no meaning). -/
inductive DecodeError where
  | reservedOperation        -- op 0xC to 0xF (30_encoding.md R52, R59)
  | reservedTearingMode      -- SET_TEARING_EFFECT with mode 3 (R53, R59)
  | payloadTypeMismatch      -- a payload of the wrong element type: no such request (R59, entry 15)
  | unassignedCommandByte    -- a CMD8 byte that is in no row of R58 (entry 16)
deriving DecidableEq, Repr

/-! ## The fields of REQ (R51) -/

/-- `REQ[71:68]`, the operation. -/
def reqOp (w : BitVec 72) : BitVec 4 := w.extractLsb' 68 4

/-- `REQ[66:64]`, the source format. -/
def reqFmt (w : BitVec 72) : BitVec 3 := w.extractLsb' 64 3

/-- `REQ[63:48]`, operand slot a0. -/
def reqA0 (w : BitVec 72) : U16 := w.extractLsb' 48 16

/-- `REQ[47:32]`, operand slot a1. -/
def reqA1 (w : BitVec 72) : U16 := w.extractLsb' 32 16

/-- `REQ[31:16]`, operand slot a2. -/
def reqA2 (w : BitVec 72) : U16 := w.extractLsb' 16 16

/-- `REQ[15:0]`, operand slot a3. -/
def reqA3 (w : BitVec 72) : U16 := w.extractLsb' 0 16

/-! ## Operand decoding (R53, R54) -/

/-- `o = a0[1:0]`; all four values are legal. -/
def decodeOrientation (a0 : U16) : Orientation :=
  match (a0.extractLsb' 0 2).toNat with
  | 0 => .o0
  | 1 => .o1
  | 2 => .o2
  | _ => .o3

/-- `mode = a0[1:0]`; 3 is reserved. -/
def decodeTearingMode (a0 : U16) : TearingMode :=
  match (a0.extractLsb' 0 2).toNat with
  | 0 => .off
  | 1 => .vertical
  | 2 => .horizontalAndVertical
  | _ => .reserved

/-- `state = a0[0]`. -/
def decodeBacklight (a0 : U16) : BacklightState :=
  match (a0.extractLsb' 0 1).toNat with
  | 0 => .off
  | _ => .on

/-- The source format `fmt` applied to the payload beside the word (R54). -/
def decodeSource (fmt : BitVec 3) (p : Payload) : Except DecodeError Source :=
  match fmt.toNat, p with
  | 0, .bytes l => .ok (.u8 l)
  | 1, .halves l => .ok (.u16 l)
  | 2, .halves l => .ok (.u16be l)
  | 3, .halves l => .ok (.u16le l)
  | 4, .bytes l => .ok (.u8Iter l)
  | 5, .halves l => .ok (.u16beIter l)
  | 6, .halves l => .ok (.u16leIter l)
  | 7, p => .ok (.unsupported p)
  | _, _ => .error .payloadTypeMismatch

/-- SET_TEARING_EFFECT refuses mode 3 (R59). -/
def decodeSetTearing (a0 : U16) : Except DecodeError Instr :=
  match decodeTearingMode a0 with
  | .reserved => .error .reservedTearingMode
  | mode => .ok (.setTearingEffect mode)

/-- SET_PIXELS takes an iterator of `u16` (R52). -/
def decodeSetPixels (sx sy ex ey : U16) : Payload → Except DecodeError Instr
  | .halves colors => .ok (.setPixels sx sy ex ey colors)
  | .bytes _ => .error .payloadTypeMismatch

/-- BLIT_PIXELS takes a slice of `u8` (R52). -/
def decodeBlitPixels (sx sy dx dy : U16) : Payload → Except DecodeError Instr
  | .bytes data => .ok (.blitPixels sx sy dx dy data)
  | .halves _ => .error .payloadTypeMismatch

/-- The request of a word and its payload (R51, R52). `REQ[67]` and the slots an operation does not
use are ignored, and so is the payload of an operation that takes none. -/
def decodeReq (w : BitVec 72) (p : Payload) : Except DecodeError Instr :=
  match (reqOp w).toNat with
  | 0x0 => .ok .init
  | 0x1 => .ok (.setOrientation (decodeOrientation (reqA0 w)))
  | 0x2 => .ok (.setAddressWindow (reqA0 w) (reqA1 w) (reqA2 w) (reqA3 w))
  | 0x3 => .ok (.setPixel (reqA0 w) (reqA1 w) (reqA2 w))
  | 0x4 => decodeSetPixels (reqA0 w) (reqA1 w) (reqA2 w) (reqA3 w) p
  | 0x5 => decodeBlitPixels (reqA0 w) (reqA1 w) (reqA2 w) (reqA3 w) p
  | 0x6 => .ok (.setScrollOffset (reqA0 w))
  | 0x7 => decodeSetTearing (reqA0 w)
  | 0x8 => .ok (.setBacklight (decodeBacklight (reqA0 w)))
  | 0x9 => .ok .release
  | 0xA => .ok (.xmitCmd ((reqA0 w).extractLsb' 0 8))
  | 0xB =>
    match decodeSource (reqFmt w) p with
    | .ok src => .ok (.xmitData src)
    | .error e => .error e
  | _ => .error .reservedOperation

/-! ## The command bytes (R58) -/

/-- The rows of format CMD8 below 0x30, bytes as the opcode table has them. -/
def cmd8RowsLow : List (U8 × Command) :=
  [(0x00, .nop), (0x01, .swreset), (0x10, .slpin), (0x11, .slpout), (0x12, .ptlon),
   (0x13, .noron), (0x20, .invoff), (0x21, .invon), (0x28, .dispoff), (0x29, .dispon),
   (0x2A, .caset), (0x2B, .raset), (0x2C, .ramwr)]

/-- The rows of format CMD8 from 0x30 up. -/
def cmd8RowsHigh : List (U8 × Command) :=
  [(0x30, .ptlar), (0x33, .vscrder), (0x34, .teoff), (0x35, .teon), (0x36, .madctl),
   (0x37, .vscad), (0x3A, .colmod), (0xB2, .porctrl), (0xB7, .gctrl), (0xBB, .vcoms),
   (0xC0, .lcmctrl), (0xC2, .vdvvrhen), (0xC3, .vrhs), (0xC4, .vdvs), (0xC5, .vcmofset),
   (0xC6, .frctrl2), (0xD0, .pwctrl1), (0xE0, .pvgamctrl), (0xE1, .nvgamctrl)]

/-- The rows of format CMD8 (R58). -/
def cmd8Rows : List (U8 × Command) := cmd8RowsLow ++ cmd8RowsHigh

/-- The command a CMD8 byte stands for. -/
def commandOfByte (b : U8) : Option Command :=
  (cmd8Rows.find? (fun row => row.1 == b)).map (fun row => row.2)

/-- The instruction of a command row. -/
def Command.toInstr : Command → Instr
  | .nop => .nop
  | .swreset => .swreset
  | .slpin => .slpin
  | .slpout => .slpout
  | .ptlon => .ptlon
  | .noron => .noron
  | .invoff => .invoff
  | .invon => .invon
  | .dispoff => .dispoff
  | .dispon => .dispon
  | .caset => .caset
  | .raset => .raset
  | .ramwr => .ramwr
  | .ptlar => .ptlar
  | .vscrder => .vscrder
  | .teoff => .teoff
  | .teon => .teon
  | .madctl => .madctl
  | .vscad => .vscad
  | .colmod => .colmod
  | .porctrl => .porctrl
  | .gctrl => .gctrl
  | .vcoms => .vcoms
  | .lcmctrl => .lcmctrl
  | .vdvvrhen => .vdvvrhen
  | .vrhs => .vrhs
  | .vdvs => .vdvs
  | .vcmofset => .vcmofset
  | .frctrl2 => .frctrl2
  | .pwctrl1 => .pwctrl1
  | .pvgamctrl => .pvgamctrl
  | .nvgamctrl => .nvgamctrl

/-- The command an instruction of format CMD8 stands for; none for a request. -/
def Instr.command? : Instr → Option Command
  | .init | .setOrientation _ | .setAddressWindow _ _ _ _ | .setPixel _ _ _
  | .setPixels _ _ _ _ _ | .blitPixels _ _ _ _ _ | .setScrollOffset _ | .setTearingEffect _
  | .setBacklight _ | .release | .xmitCmd _ | .xmitData _ => none
  | .nop => some .nop
  | .swreset => some .swreset
  | .slpin => some .slpin
  | .slpout => some .slpout
  | .ptlon => some .ptlon
  | .noron => some .noron
  | .invoff => some .invoff
  | .invon => some .invon
  | .dispoff => some .dispoff
  | .dispon => some .dispon
  | .caset => some .caset
  | .raset => some .raset
  | .ramwr => some .ramwr
  | .ptlar => some .ptlar
  | .vscrder => some .vscrder
  | .teoff => some .teoff
  | .teon => some .teon
  | .madctl => some .madctl
  | .vscad => some .vscad
  | .colmod => some .colmod
  | .porctrl => some .porctrl
  | .gctrl => some .gctrl
  | .vcoms => some .vcoms
  | .lcmctrl => some .lcmctrl
  | .vdvvrhen => some .vdvvrhen
  | .vrhs => some .vrhs
  | .vdvs => some .vdvs
  | .vcmofset => some .vcmofset
  | .frctrl2 => some .frctrl2
  | .pwctrl1 => some .pwctrl1
  | .pvgamctrl => some .pvgamctrl
  | .nvgamctrl => some .nvgamctrl

/-- The decoder, total on both formats. -/
def decode : Request → Except DecodeError Instr
  | .req w p => decodeReq w p
  | .cmd8 b =>
    match commandOfByte b with
    | some c => .ok c.toInstr
    | none => .error .unassignedCommandByte

/-! ## The encoder (R51 to R54, R58) -/

/-- The packing of R51: `op`, a zero, `fmt`, then the four slots. -/
def packReq (op : BitVec 4) (fmt : BitVec 3) (a0 a1 a2 a3 : U16) : BitVec 72 :=
  op ++ 0#1 ++ fmt ++ a0 ++ a1 ++ a2 ++ a3

/-- The code of an orientation (10_state.md R12). -/
def Orientation.code : Orientation → BitVec 2
  | .o0 => 0b00
  | .o1 => 0b01
  | .o2 => 0b10
  | .o3 => 0b11

/-- The code of a tearing mode (R53). -/
def TearingMode.code : TearingMode → BitVec 2
  | .off => 0
  | .vertical => 1
  | .horizontalAndVertical => 2
  | .reserved => 3

/-- The code of a backlight state (R53). -/
def BacklightState.code : BacklightState → BitVec 1
  | .off => 0
  | .on => 1

/-- The code of a source format (R54). -/
def Source.fmt : Source → BitVec 3
  | .u8 _ => 0
  | .u16 _ => 1
  | .u16be _ => 2
  | .u16le _ => 3
  | .u8Iter _ => 4
  | .u16beIter _ => 5
  | .u16leIter _ => 6
  | .unsupported _ => 7

/-- The payload of a source, as the host lends it. -/
def Source.payload : Source → Payload
  | .u8 p => .bytes p
  | .u16 p => .halves p
  | .u16be p => .halves p
  | .u16le p => .halves p
  | .u8Iter p => .bytes p
  | .u16beIter p => .halves p
  | .u16leIter p => .halves p
  | .unsupported p => p

/-- The byte of a command in the opcode table (the defaults of R58). -/
def Command.tableByte : Command → U8
  | .nop => 0x00
  | .swreset => 0x01
  | .slpin => 0x10
  | .slpout => 0x11
  | .ptlon => 0x12
  | .noron => 0x13
  | .invoff => 0x20
  | .invon => 0x21
  | .dispoff => 0x28
  | .dispon => 0x29
  | .caset => 0x2A
  | .raset => 0x2B
  | .ramwr => 0x2C
  | .ptlar => 0x30
  | .vscrder => 0x33
  | .teoff => 0x34
  | .teon => 0x35
  | .madctl => 0x36
  | .vscad => 0x37
  | .colmod => 0x3A
  | .porctrl => 0xB2
  | .gctrl => 0xB7
  | .vcoms => 0xBB
  | .lcmctrl => 0xC0
  | .vdvvrhen => 0xC2
  | .vrhs => 0xC3
  | .vdvs => 0xC4
  | .vcmofset => 0xC5
  | .frctrl2 => 0xC6
  | .pwctrl1 => 0xD0
  | .pvgamctrl => 0xE0
  | .nvgamctrl => 0xE1

/-- The payload an assembler writes beside a word that takes none. -/
def noPayload : Payload := .bytes []

/-- The encoded form of an instruction; unused fields are 0, as an assembler writes them (R51). -/
def encode : Instr → Request
  | .init => .req (packReq 0x0 0 0 0 0 0) noPayload
  | .setOrientation o => .req (packReq 0x1 0 (o.code.setWidth 16) 0 0 0) noPayload
  | .setAddressWindow sx sy ex ey => .req (packReq 0x2 0 sx sy ex ey) noPayload
  | .setPixel x y color => .req (packReq 0x3 0 x y color 0) noPayload
  | .setPixels sx sy ex ey colors => .req (packReq 0x4 0 sx sy ex ey) (.halves colors)
  | .blitPixels sx sy dx dy data => .req (packReq 0x5 0 sx sy dx dy) (.bytes data)
  | .setScrollOffset offset => .req (packReq 0x6 0 offset 0 0 0) noPayload
  | .setTearingEffect mode => .req (packReq 0x7 0 (mode.code.setWidth 16) 0 0 0) noPayload
  | .setBacklight state => .req (packReq 0x8 0 (state.code.setWidth 16) 0 0 0) noPayload
  | .release => .req (packReq 0x9 0 0 0 0 0) noPayload
  | .xmitCmd c => .req (packReq 0xA 0 (c.setWidth 16) 0 0 0) noPayload
  | .xmitData src => .req (packReq 0xB src.fmt 0 0 0 0) src.payload
  | .nop => .cmd8 Command.nop.tableByte
  | .swreset => .cmd8 Command.swreset.tableByte
  | .slpin => .cmd8 Command.slpin.tableByte
  | .slpout => .cmd8 Command.slpout.tableByte
  | .ptlon => .cmd8 Command.ptlon.tableByte
  | .noron => .cmd8 Command.noron.tableByte
  | .invoff => .cmd8 Command.invoff.tableByte
  | .invon => .cmd8 Command.invon.tableByte
  | .dispoff => .cmd8 Command.dispoff.tableByte
  | .dispon => .cmd8 Command.dispon.tableByte
  | .caset => .cmd8 Command.caset.tableByte
  | .raset => .cmd8 Command.raset.tableByte
  | .ramwr => .cmd8 Command.ramwr.tableByte
  | .ptlar => .cmd8 Command.ptlar.tableByte
  | .vscrder => .cmd8 Command.vscrder.tableByte
  | .teoff => .cmd8 Command.teoff.tableByte
  | .teon => .cmd8 Command.teon.tableByte
  | .madctl => .cmd8 Command.madctl.tableByte
  | .vscad => .cmd8 Command.vscad.tableByte
  | .colmod => .cmd8 Command.colmod.tableByte
  | .porctrl => .cmd8 Command.porctrl.tableByte
  | .gctrl => .cmd8 Command.gctrl.tableByte
  | .vcoms => .cmd8 Command.vcoms.tableByte
  | .lcmctrl => .cmd8 Command.lcmctrl.tableByte
  | .vdvvrhen => .cmd8 Command.vdvvrhen.tableByte
  | .vrhs => .cmd8 Command.vrhs.tableByte
  | .vdvs => .cmd8 Command.vdvs.tableByte
  | .vcmofset => .cmd8 Command.vcmofset.tableByte
  | .frctrl2 => .cmd8 Command.frctrl2.tableByte
  | .pwctrl1 => .cmd8 Command.pwctrl1.tableByte
  | .pvgamctrl => .cmd8 Command.pvgamctrl.tableByte
  | .nvgamctrl => .cmd8 Command.nvgamctrl.tableByte

/-! ## Words as the opcode table numbers their bits -/

/-- The REQ word whose bits are `w` in the opcode table's numbering: the header `REQ[71:64]` is bits
7..0 of `w`, the byte `REQ[63:56]` is bits 15..8, and so on (entry 13). -/
def tableReqWord (w : Nat) : BitVec 72 :=
  (List.range 9).foldl (fun acc k => (acc <<< 8) ||| BitVec.ofNat 72 (w / 256 ^ k % 256)) 0

/-- The payload put beside a word that comes without one: a single zero element of the type the
operation or the format takes (entry 14). -/
def tablePayload (word : BitVec 72) : Payload :=
  match (reqOp word).toNat, (reqFmt word).toNat with
  | 0x4, _ => .halves [0]
  | 0xB, 1 => .halves [0]
  | 0xB, 2 => .halves [0]
  | 0xB, 3 => .halves [0]
  | 0xB, 5 => .halves [0]
  | 0xB, 6 => .halves [0]
  | _, _ => .bytes [0]

/-- The request of a REQ word, with a payload beside it. -/
def tableReq (w : Nat) : Request := .req (tableReqWord w) (tablePayload (tableReqWord w))

/-- The request whose bits are `w`, `nbits` of them given by the table. More than 8 bits: format REQ.
At most 8 bits, where both formats fit: the header an assembler writes (low nibble 0, an assigned
operation) is a REQ word with zero operands; otherwise a byte of R58 is format CMD8; otherwise it is a
REQ header again (entry 13). -/
def tableRequest (nbits w : Nat) : Request :=
  if 8 < nbits then tableReq w
  else if w % 16 = 0 ∧ w % 256 < 0xC0 then tableReq (w % 256)
  else
    match commandOfByte (BitVec.ofNat 8 w) with
    | some _ => .cmd8 (BitVec.ofNat 8 w)
    | none => tableReq (w % 256)

/-- The instruction the decoder reads from such a word; none where it refuses. -/
def decodeTableWord (nbits w : Nat) : Option Instr :=
  match decode (tableRequest nbits w) with
  | .ok i => some i
  | .error _ => none

end Sys2Proof
end

