-- ==== Sys2Proof/Machine/State.lean ====
section
/-! DEFINITION. The state of the sequencer (10_state.md) as plain data, the events of the trace, the
responses, the refusals, and the state after reset. -/

namespace Sys2Proof.Machine

/-- The four optional output lines (10_state.md R16). -/
inductive Line where
  | rst | bl | dc | cs
deriving DecidableEq, Repr, Inhabited

/-- What an output latch holds (10_state.md R17). -/
inductive Level where
  | unknown | low | high
deriving DecidableEq, Repr, Inhabited

/-- The level a line is driven to (00_scope.md R8). -/
inductive Drive where
  | low | high
deriving DecidableEq, Repr, Inhabited

/-- The straps `has` (10_state.md R16): which lines the instance owns. -/
structure Straps where
  rst : Bool
  bl : Bool
  dc : Bool
  cs : Bool
deriving DecidableEq, Repr, Inhabited

/-- The output latches `lvl` (10_state.md R17). -/
structure Latches where
  rst : Level
  bl : Level
  dc : Level
  cs : Level
deriving DecidableEq, Repr, Inhabited

/-- The state of the initialization state machine (10_state.md R14, 42_init.md R109). -/
inductive Phase where
  | unpowered | reset | registerProgrammed | displayOn
deriving DecidableEq, Repr, Inhabited

/-- What a bus write answered; the bus error's own value is dropped (20_memory.md R34). -/
inductive BusAnswer where
  | ok | fail
deriving DecidableEq, Repr, Inhabited

/-- The events of the trace (00_scope.md R8, R9). -/
inductive Event where
  | pin (l : Line) (v : Drive) (a : Answer)     -- EvPin(l, v, a)
  | bus (bs : List U8) (a : BusAnswer)          -- EvBus(bs, a)
  | delay (n : U32)                             -- EvDelay(n)
deriving DecidableEq, Repr, Inhabited

/-- The response of a request (30_encoding.md R63, 60_exceptions.md R150). -/
inductive Response where
  | ok
  | err (k : Err)
deriving DecidableEq, Repr, Inhabited

/-- The environment's answers once no more are written down: one constant answer for ever, or a free
value for each call, numbered by a counter (60_exceptions.md R162; entries 3 and 4). -/
inductive Tail where
  | always (a : Answer)
  | free (k : Nat)
deriving DecidableEq, Repr, Inhabited

/-- The answers the environment will give, in call order: first those of `script`, then `tail`. An
input of the machine (00_scope.md R6), held as plain data. -/
structure Env where
  script : List Answer
  tail : Tail
deriving DecidableEq, Repr, Inhabited

/-- A payload buffer as the host has it back after a request: what its elements then are, and how many
of them were pulled from it as an iterator (20_memory.md R31, R32; 40_encoder.md R79). -/
structure Returned where
  buffer : Payload
  consumed : Nat
deriving DecidableEq, Repr, Inhabited

/-- The state. The registers and records of 10_state.md, the host's payload buffer, and the model's own
inputs and configuration (last three fields). INVENTORY.md lists each field with its rule. -/
structure State where
  -- general registers (R10 to R13)
  sizeX : U16
  sizeY : U16
  orientation : Orientation
  xStart : U16
  yStart : U16
  -- phase (R14) and flag (R15)
  phase : Phase
  released : Bool
  -- control registers (R16, R17)
  has : Straps
  lvl : Latches
  -- staging buffers (R18): the filled part of each; the fill indices n8, n16 are their lengths
  buf8 : List U8
  buf16 : List U16
  -- host memory (20_memory.md R30 to R33): the payload buffer lent with the most recent data
  -- request, and how many elements have been pulled from it as an iterator
  payload : Payload
  consumed : Nat
  -- the records of a run (00_scope.md R9, 70_reset_and_hazards.md R200): its calls, its responses, and
  -- the payload buffers the host has back, one for each data request that responded, oldest first
  trace : List Event
  responses : List Response
  returned : List Returned
  -- inputs: the requests the host has still to issue, and the environment's answers
  requests : List Request
  env : Env
  -- the configuration (00_scope.md R5), constant
  params : Params
deriving DecidableEq, Repr

/-- The block stops with no fault: it has no trap, and every error is a response (60_exceptions.md
R150; entry 20). The type is closed and has no constructor. -/
inductive Fault where
deriving DecidableEq, Repr

/-- Why the model has no step (60_exceptions.md R166). Every refusal is decided before the request's
first event. All are safe: the model stops where the spec gives no meaning. -/
inductive Refusal where
  /-- raised by an arm of `exec` whose instruction has no meaning yet (safe); no arm is left -/
  | notModelled (mnemonic : String)
  /-- raised by every instruction once `released` is true (R138, R166; safe) -/
  | afterRelease
  /-- raised by `step` when the request does not decode (R59, R166; safe) -/
  | undecodable (e : DecodeError)
  /-- raised by SET_TEARING_EFFECT with mode 3 (R136, R166; safe) -/
  | reservedTearingMode
  /-- raised by the window requests when a coordinate plus its offset does not fit 16 bits (R123, R166; safe) -/
  | coordinateOverflow
  /-- raised by BLIT_PIXELS with a zero extent and empty data (R134, R166; safe) -/
  | blitZeroExtent
  /-- raised by BLIT_PIXELS when start + extent - 1 does not fit 16 bits (R57, R166; safe) -/
  | blitEndOverflow
  /-- raised by construction with size_y above 320 (R180, R166; safe) -/
  | sizeYTooLarge
deriving DecidableEq, Repr

/-- The state right after construction (10_state.md R22, 70_reset_and_hazards.md R180) for one choice
of the straps and sizes, `NEW rst=1 bl=1 dc=1 cs=1 size=240x240` (entry 7), the suggested parameters
(entry 8) and an environment of which nothing is known (entry 4). `construct` gives the others. -/
def State.reset : State where
  sizeX := 240
  sizeY := 240
  orientation := .o0
  xStart := 0
  yStart := 0
  phase := .unpowered
  released := false
  has := { rst := true, bl := true, dc := true, cs := true }
  lvl := { rst := .unknown, bl := .unknown, dc := .unknown, cs := .unknown }
  buf8 := []
  buf16 := []
  payload := .bytes []
  consumed := 0
  trace := []
  responses := []
  returned := []
  requests := []
  env := { script := [], tail := .free 0 }
  params := Params.suggested Config.freeRegProgram

end Sys2Proof.Machine
end

