-- ==== Sys2Proof/Machine/Operands.lean ====
section
/-! DEFINITION. The values operations compute: byte order (00_scope.md R7, 20_memory.md R38), operand
assembly and integer arithmetic (30_encoding.md R56, R57), the parameter tables read at an operand
(R58, R120), the orientation offsets (43_addressing.md R121), and the byte list of a source format
(40_encoder.md R81). -/

namespace Sys2Proof.Machine

/-! ## Byte order (R7, R38) -/

/-- `hi8(v) = v[15:8]`. -/
def hi8 (v : U16) : U8 := v.extractLsb' 8 8

/-- `lo8(v) = v[7:0]`. -/
def lo8 (v : U16) : U8 := v.extractLsb' 0 8

/-- `bswap16(v) = (lo8(v) << 8) | hi8(v)`. -/
def bswap16 (v : U16) : U16 := ((lo8 v).setWidth 16 <<< 8) ||| (hi8 v).setWidth 16

/-- `be16(v) = [hi8(v), lo8(v)]`. -/
def be16 (v : U16) : List U8 := [hi8 v, lo8 v]

/-- `le16(v) = [lo8(v), hi8(v)]`. -/
def le16 (v : U16) : List U8 := [lo8 v, hi8 v]

/-- The two bytes of a 16-bit value in a given order. -/
def bytes16 (order : ByteOrder) (v : U16) : List U8 :=
  match order with
  | .le => le16 v
  | .be => be16 v

/-- What an in-place format writes back for an element of value `v` (40_encoder.md R73, R74): the
value itself where the host's native order is the format's, its byte swap where it is not. -/
def convert16 (format native : ByteOrder) (v : U16) : U16 :=
  if format = native then v else bswap16 v

/-! ## Integer arithmetic (R57): exact naturals, narrowed at the end -/

/-- Whether an exact result fits 16 bits. -/
def fits16 (n : Nat) : Bool := decide (n < 65536)

/-- An exact result that fits, as a 16-bit value. -/
def narrow16 (n : Nat) : U16 := BitVec.ofNat 16 n

/-- A coordinate plus the offset of its axis (20_memory.md R43), exactly. -/
def physical (coord offset : U16) : Nat := coord.toNat + offset.toNat

/-- `start + extent - 1`, the end of a BLIT_PIXELS window (R56), for a positive extent. -/
def blitEnd (start extent : U16) : Nat := start.toNat + extent.toNat - 1

/-- `dx * dy * 2`, never truncated. -/
def blitLength (dx dy : U16) : Nat := dx.toNat * dy.toNat * 2

end Sys2Proof.Machine

namespace Sys2Proof

/-! ## Parameter tables -/

/-- `OPC[mnemonic]` (R58). -/
def OpcTable.get (t : OpcTable) : Command → U8
  | .nop => t.nop
  | .swreset => t.swreset
  | .slpin => t.slpin
  | .slpout => t.slpout
  | .ptlon => t.ptlon
  | .noron => t.noron
  | .invoff => t.invoff
  | .invon => t.invon
  | .dispoff => t.dispoff
  | .dispon => t.dispon
  | .caset => t.caset
  | .raset => t.raset
  | .ramwr => t.ramwr
  | .ptlar => t.ptlar
  | .vscrder => t.vscrder
  | .teoff => t.teoff
  | .teon => t.teon
  | .madctl => t.madctl
  | .vscad => t.vscad
  | .colmod => t.colmod
  | .porctrl => t.porctrl
  | .gctrl => t.gctrl
  | .vcoms => t.vcoms
  | .lcmctrl => t.lcmctrl
  | .vdvvrhen => t.vdvvrhen
  | .vrhs => t.vrhs
  | .vdvs => t.vdvs
  | .vcmofset => t.vcmofset
  | .frctrl2 => t.frctrl2
  | .pwctrl1 => t.pwctrl1
  | .pvgamctrl => t.pvgamctrl
  | .nvgamctrl => t.nvgamctrl

/-- `MADCTL_BYTE[o]` (R120). -/
def MadctlTable.get (t : MadctlTable) : Orientation → U8
  | .o0 => t.o0
  | .o1 => t.o1
  | .o2 => t.o2
  | .o3 => t.o3

end Sys2Proof

namespace Sys2Proof.Machine

/-- The gap `g = NATIVE_DIM - size_y` (R121), a natural because `size_y <= 320` (R180). -/
def gap (sizeY : U16) : Nat := Config.nativeDim - sizeY.toNat

/-- `Offsets(o, size_y)`, the pair `(x_start, y_start)` (R121), under the parameter OFFSET_AXIS. -/
def offsets (axis : OffsetAxis) (o : Orientation) (sizeY : U16) : U16 × U16 :=
  match o, axis with
  | .o0, _ => (0, 0)
  | .o1, _ => (0, 0)
  | .o2, .o2ShiftsY_o3ShiftsX => (0, narrow16 (gap sizeY))
  | .o3, .o2ShiftsY_o3ShiftsX => (narrow16 (gap sizeY), 0)
  | .o2, .o2ShiftsX_o3ShiftsY => (narrow16 (gap sizeY), 0)
  | .o3, .o2ShiftsX_o3ShiftsY => (0, narrow16 (gap sizeY))

/-- `Bytes(fmt, p)`: what a format puts on the wire when every bus write succeeds (40_encoder.md R81). -/
def sourceBytes (native : ByteOrder) : Source → List U8
  | .u8 p => p
  | .u8Iter p => p
  | .u16 p => p.flatMap (bytes16 native)
  | .u16be p => p.flatMap be16
  | .u16beIter p => p.flatMap be16
  | .u16le p => p.flatMap le16
  | .u16leIter p => p.flatMap le16
  | .unsupported _ => []

end Sys2Proof.Machine
end

