-- ==== Sys2Proof/Machine/Ops.lean ====
section
/-! DEFINITION. The named operations every meaning is made of: the registers' setters, the payload
(20_memory.md R31, R32), the environment's answers (60_exceptions.md R162), the three capability calls
(00_scope.md R8), raising an error (R8, 60_exceptions.md R155, R157) and responding (R150). -/

namespace Sys2Proof.Machine

/-! ## Lines -/

/-- Whether a line is present (10_state.md R16). -/
def Straps.get (h : Straps) : Line → Bool
  | .rst => h.rst
  | .bl => h.bl
  | .dc => h.dc
  | .cs => h.cs

/-- The latch of a line (10_state.md R17). -/
def Latches.get (l : Latches) : Line → Level
  | .rst => l.rst
  | .bl => l.bl
  | .dc => l.dc
  | .cs => l.cs

/-- The latches with one of them replaced. -/
def Latches.set (l : Latches) (line : Line) (v : Level) : Latches :=
  match line with
  | .rst => { l with rst := v }
  | .bl => { l with bl := v }
  | .dc => { l with dc := v }
  | .cs => { l with cs := v }

/-- The level a successful drive leaves. -/
def Drive.level : Drive → Level
  | .low => .low
  | .high => .high

/-! ## Registers -/

/-- `S.phase <- p`. -/
def State.setPhase (s : State) (p : Phase) : State := { s with phase := p }

/-- `S.released <- b`. -/
def State.setReleased (s : State) (b : Bool) : State := { s with released := b }

/-- The three register writes of SET_ORIENTATION, made together (43_addressing.md R122). -/
def State.setAddressing (s : State) (o : Orientation) (offset : U16 × U16) : State :=
  { s with orientation := o, xStart := offset.1, yStart := offset.2 }

/-- `S.lvl[l] <- v`. -/
def State.setLvl (s : State) (l : Line) (v : Level) : State := { s with lvl := s.lvl.set l v }

/-- The staging buffer of the byte iterator; its fill index is the length of the list. -/
def State.setBuf8 (s : State) (b : List U8) : State := { s with buf8 := b }

/-- The staging buffer of the 16-bit iterators; its fill index is the length of the list. -/
def State.setBuf16 (s : State) (b : List U16) : State := { s with buf16 := b }

/-- The fill index `n8` (10_state.md R18). -/
def State.n8 (s : State) : Nat := s.buf8.length

/-- The fill index `n16` (10_state.md R18). -/
def State.n16 (s : State) : Nat := s.buf16.length

/-- One more event in the trace (00_scope.md R9). -/
def State.pushEvent (s : State) (e : Event) : State := { s with trace := s.trace ++ [e] }

/-- One more response in the record of the run. -/
def State.pushResponse (s : State) (r : Response) : State :=
  { s with responses := s.responses ++ [r] }

/-- The requests still to be issued. -/
def State.setRequests (s : State) (rs : List Request) : State := { s with requests := rs }

/-- The environment after some of its answers were given. -/
def State.setEnv (s : State) (e : Env) : State := { s with env := e }

/-! ## Host memory (20_memory.md R30 to R33) -/

/-- The host lends a payload for the duration of a request (R33); nothing of it is consumed yet. -/
def State.lend (s : State) (p : Payload) : State := { s with payload := p, consumed := 0 }

/-- The host has its buffer back at the response (R32, R33): it joins the record of the run. -/
def State.giveBack (s : State) : State :=
  { s with returned := s.returned ++ [{ buffer := s.payload, consumed := s.consumed }] }

/-- One more element pulled from the lent iterator: reading an iterator consumes the element (R31). -/
def State.consumeOne (s : State) : State := { s with consumed := s.consumed + 1 }

/-- A payload with element `i` of a `u16` slice replaced. -/
def Payload.write16 (p : Payload) (i : Nat) (v : U16) : Payload :=
  match p with
  | .halves l => .halves (l.set i v)
  | .bytes l => .bytes l

/-- `MemWrite(p, i, 2, v)` (R32). -/
def State.memWrite16 (s : State) (i : Nat) (v : U16) : State :=
  { s with payload := Payload.write16 s.payload i v }

/-! ## The environment's answers (60_exceptions.md R162) -/

/-- The k-th answer after the written ones. -/
def Tail.answer : Tail → Nat → Answer
  | .always a, _ => a
  | .free n, k => Config.freeAnswer (n + k)

/-- The tail after one of its answers was given. -/
def Tail.next : Tail → Tail
  | .always a => .always a
  | .free n => .free (n + 1)

/-- The answer the environment gives to the k-th call from now, k from 0. -/
def Env.answer (e : Env) (k : Nat) : Answer :=
  match e.script[k]? with
  | some a => a
  | none => e.tail.answer (k - e.script.length)

/-- The environment after it has answered one call. -/
def Env.next (e : Env) : Env :=
  match e.script with
  | _ :: rest => { e with script := rest }
  | [] => { e with tail := e.tail.next }

/-! ## Capability calls (00_scope.md R8)

Every call returns and there is no time-out: R162 lets a model take that as given, and such a model cannot
see the hang of a call that never returns (70_reset_and_hazards.md R196; entry 19, unsafe). -/

/-- The latch after a drive: the driven level on `ok`, Unknown on a failure (10_state.md R17). -/
def latchAfter (v : Drive) : Answer → Level
  | .ok => v.level
  | .fail _ => .unknown

/-- A bus answer from an answer of the environment: the error value is dropped (20_memory.md R34). -/
def busAnswer : Answer → BusAnswer
  | .ok => .ok
  | .fail _ => .fail

/-- `PinSet(l, v)`: drive a line; the answer and the state after it. It always returns (R196). -/
def pinSet (l : Line) (v : Drive) (s : State) : Answer × State :=
  let a := s.env.answer 0
  (a, ((s.setEnv s.env.next).pushEvent (.pin l v a)).setLvl l (latchAfter v a))

/-- `BusWrite(bs)`: one call of the bus; the answer and the state after it. It always returns (R196). -/
def busWrite (bs : List U8) (s : State) : BusAnswer × State :=
  let a := busAnswer (s.env.answer 0)
  (a, (s.setEnv s.env.next).pushEvent (.bus bs a))

/-- `DelayUs(n)`: it never fails, and it always returns (R196). -/
def delayUs (n : U32) (s : State) : State := s.pushEvent (.delay n)

/-! ## Errors (60_exceptions.md R155, R157) and responses (R150) -/

/-- How an operation ends: the state it leaves and the first error, if any. -/
structure Run where
  st : State
  err : Option Err
deriving DecidableEq, Repr

/-- The operation finished: `return Ok`. -/
def succeed (s : State) : Run := { st := s, err := none }

/-- `raise Err(k)`: the operation stops; nothing is saved and control goes nowhere (R157). -/
def raiseErr (k : Err) (s : State) : Run := { st := s, err := some k }

/-- `r?; f`: go on only where no error was raised; the first error wins (R155). -/
def Run.andThen (r : Run) (f : State → Run) : Run :=
  match r.err with
  | none => f r.st
  | some _ => r

/-- `PinSet(l, v)?` with the error kind the rule names. -/
def pinSetOr (kind : PinError → Err) (l : Line) (v : Drive) (s : State) : Run :=
  match pinSet l v s with
  | (.ok, t) => succeed t
  | (.fail e, t) => raiseErr (kind e) t

/-- `BusWrite(bs)?`, on failure `raise Err(BusWriteFailed)` (40_encoder.md R70). -/
def busWriteOr (bs : List U8) (s : State) : Run :=
  match busWrite bs s with
  | (.ok, t) => succeed t
  | (.fail, t) => raiseErr .busWriteFailed t

/-- The response of a run. -/
def Run.response (r : Run) : Response :=
  match r.err with
  | none => .ok
  | some k => .err k

/-- The request responds; the block is ready for the next one (R159). -/
def respond (r : Run) : Host.Outcome State Fault Refusal := .next (r.st.pushResponse r.response)

/-- A data request responds: the host has its buffer back with the response (20_memory.md R32, R33). -/
def respondLent (r : Run) : Host.Outcome State Fault Refusal := respond { r with st := r.st.giveBack }

end Sys2Proof.Machine
end

