-- ==== Sys2Proof/Machine/Encoder.lean ====
section
/-! DEFINITION. The pixel/command encoder (40_encoder.md): the eight arms of `Encode(fmt, p)`. -/

namespace Sys2Proof.Machine

/-! ## Slice formats -/

/-- `U8` (R71): one bus write of the whole slice, also when it is empty. -/
def encodeU8 (p : List U8) (s : State) : Run := busWriteOr p s

/-- `U16` (R72): one bus write, elements in the host's native order. -/
def encodeU16 (p : List U16) (s : State) : Run :=
  busWriteOr (p.flatMap (bytes16 s.params.nativeOrder)) s

/-- The conversion loop of R73 and R74 from element `i` on: read each value, write `f` of it back. -/
def convertInPlace (f : U16 → U16) : List U16 → Nat → State → State
  | [], _, s => s
  | v :: vs, i, s => convertInPlace f vs (i + 1) (s.memWrite16 i (f v))

/-- `U16BE` (R73): all conversions first, then one bus write of the values big-endian. -/
def encodeU16BE (p : List U16) (s : State) : Run :=
  busWriteOr (p.flatMap be16) (convertInPlace (convert16 .be s.params.nativeOrder) p 0 s)

/-- `U16LE` (R74): all conversions first, then one bus write of the values little-endian. -/
def encodeU16LE (p : List U16) (s : State) : Run :=
  busWriteOr (p.flatMap le16) (convertInPlace (convert16 .le s.params.nativeOrder) p 0 s)

/-! ## Iterator formats -/

/-- `BusWrite(buf8[0 .. n8-1])?; n8 <- 0`. After a failed flush the buffer is dead (R18, entry 10). -/
def flush8 (s : State) : Run :=
  let r := busWriteOr s.buf8 s
  { r with st := r.st.setBuf8 [] }

/-- `BusWrite(f(buf16[0]) ++ ... ++ f(buf16[n16-1]))?; n16 <- 0`. -/
def flush16 (f : U16 → List U8) (s : State) : Run :=
  let r := busWriteOr (s.buf16.flatMap f) s
  { r with st := r.st.setBuf16 [] }

/-- The loop of R75 over the elements not yet read. -/
def gather8 : List U8 → State → Run
  | [], s => if s.n8 = 0 then succeed s else flush8 s
  | v :: vs, s =>
    let t := s.consumeOne.setBuf8 (s.buf8 ++ [v])
    if t.n8 = Config.buf8Elems then (flush8 t).andThen (gather8 vs) else gather8 vs t

/-- The loop of R76 and R77 over the elements not yet read. -/
def gather16 (f : U16 → List U8) : List U16 → State → Run
  | [], s => if s.n16 = 0 then succeed s else flush16 f s
  | v :: vs, s =>
    let t := s.consumeOne.setBuf16 (s.buf16 ++ [v])
    if t.n16 = Config.buf16Elems then (flush16 f t).andThen (gather16 f vs) else gather16 f vs t

/-- `U8Iter` (R75). -/
def encodeU8Iter (p : List U8) (s : State) : Run := gather8 p (s.setBuf8 [])

/-- `U16BEIter` (R76). -/
def encodeU16BEIter (p : List U16) (s : State) : Run := gather16 be16 p (s.setBuf16 [])

/-- `U16LEIter` (R77). -/
def encodeU16LEIter (p : List U16) (s : State) : Run := gather16 le16 p (s.setBuf16 [])

/-- `Unsupported` (R80): no bus write and no access to the payload. -/
def encodeUnsupported (s : State) : Run := raiseErr .formatNotImplemented s

/-- `Encode(fmt, p)` (R70): one dispatch on the format. -/
def encodeSource : Source → State → Run
  | .u8 p, s => encodeU8 p s
  | .u16 p, s => encodeU16 p s
  | .u16be p, s => encodeU16BE p s
  | .u16le p, s => encodeU16LE p s
  | .u8Iter p, s => encodeU8Iter p s
  | .u16beIter p, s => encodeU16BEIter p s
  | .u16leIter p, s => encodeU16LEIter p s
  | .unsupported _, s => encodeUnsupported s

end Sys2Proof.Machine
end

