-- ==== Sys2Proof/Machine/Flags.lean ====
section
/-! DEFINITION. The one flag, `released` (10_state.md R15), and what it decides: every request is
refused while it is true (44_pixel_api.md R138, 60_exceptions.md R166). There is no condition code. -/

namespace Sys2Proof.Machine

/-- A request of a live instance; after RELEASE it is refused (R166). -/
def ifLive (s : State) (o : Host.Outcome State Fault Refusal) : Host.Outcome State Fault Refusal :=
  match s.released with
  | true => .refused .afterRelease
  | false => o

end Sys2Proof.Machine
end

