-- ==== Sys2Proof/Machine/Sequencer.lean ====
section
/-! DEFINITION. The signal sequencer (41_sequencer.md): the bracket of R90 around every encoder call,
and the two requests that expose it, XMIT_CMD (R93) and XMIT_DATA (R94). -/

namespace Sys2Proof.Machine

/-- The two kinds of transmission (30_encoding.md R55). -/
inductive Kind where
  | cmd | data
deriving DecidableEq, Repr, Inhabited

/-- The DC level of a transmission: low for a command, high for data (R90 step 2). -/
def Kind.dcLevel : Kind → Drive
  | .cmd => .low
  | .data => .high

/-- Step 1 of R90: assert chip-select. After a failed assertion the deassertion is attempted where
CS_RELEASE_ON_ASSERT_FAIL says so, its answer ignored. -/
def assertCs (s : State) : Run :=
  match s.has.cs with
  | false => succeed s
  | true =>
    match pinSet .cs .low s with
    | (.ok, t) => succeed t
    | (.fail _, t) =>
      raiseErr .csFailed (if t.params.csReleaseOnAssertFail then (pinSet .cs .high t).2 else t)

/-- Step 2 of R90: drive DC low for a command, high for data; skipped where the line is absent. -/
def selectDc (kind : Kind) (s : State) : Run :=
  match s.has.dc with
  | false => succeed s
  | true => pinSetOr (fun _ => .dcFailed) .dc kind.dcLevel s

/-- Step 4 of R90: deassert chip-select, always attempted, its answer ignored. -/
def releaseCs (s : State) : State :=
  match s.has.cs with
  | false => s
  | true => (pinSet .cs .high s).2

/-- Steps 2 to 4 of R90: the deassertion follows whether or not the steps before it failed. -/
def insideBracket (kind : Kind) (src : Source) (s : State) : Run :=
  let r := (selectDc kind s).andThen (encodeSource src)
  { r with st := releaseCs r.st }

/-- `Xmit(kind, fmt, p)` (R90). -/
def xmit (kind : Kind) (src : Source) (s : State) : Run :=
  (assertCs s).andThen (insideBracket kind src)

/-- `XmitCmd(c)` (R93): one command byte through the `U8` arm. -/
def xmitCmd (c : U8) (s : State) : Run := xmit .cmd (.u8 [c]) s

/-- `XmitData(fmt, p)` (R94). -/
def xmitData (src : Source) (s : State) : Run := xmit .data src s

/-- `XmitCmd(OPC[mnemonic])`. -/
def xmitCommand (c : Command) (s : State) : Run := xmitCmd (s.params.opc.get c) s

/-- XMIT_CMD `c` (R93). -/
def execXmitCmd (c : U8) (s : State) : Host.Outcome State Fault Refusal :=
  ifLive s (respond (xmitCmd c s))

/-- XMIT_DATA `fmt, p` (R94): the payload is lent, transmitted and given back. -/
def execXmitData (src : Source) (s : State) : Host.Outcome State Fault Refusal :=
  ifLive s (respondLent (xmitData src (s.lend src.payload)))

end Sys2Proof.Machine
end

