-- ==== Sys2Proof/Machine/Commands.lean ====
section
/-! DEFINITION. The controller command bytes (30_encoding.md R58, format CMD8 of the opcode table). A
command byte reaches the bus only as a command transmission (R55, R93), so the meaning of a row is the
transmission `XmitCmd(OPC[mnemonic])`, what the host gets by XMIT_CMD with that byte (entry 1). -/

namespace Sys2Proof.Machine

/-- The command transmission of a mnemonic as an instruction of its own (R58, R93). -/
def execCommand (c : Command) (s : State) : Host.Outcome State Fault Refusal :=
  ifLive s (respond (xmitCommand c s))

/-- NOP: the command transmission of OPC[NOP] (R58). -/
def execNop (s : State) : Host.Outcome State Fault Refusal := execCommand .nop s

/-- SWRESET: the command transmission of OPC[SWRESET] (R58). -/
def execSwreset (s : State) : Host.Outcome State Fault Refusal := execCommand .swreset s

/-- SLPIN: the command transmission of OPC[SLPIN] (R58). -/
def execSlpin (s : State) : Host.Outcome State Fault Refusal := execCommand .slpin s

/-- SLPOUT: the command transmission of OPC[SLPOUT] (R58). -/
def execSlpout (s : State) : Host.Outcome State Fault Refusal := execCommand .slpout s

/-- PTLON: the command transmission of OPC[PTLON] (R58). -/
def execPtlon (s : State) : Host.Outcome State Fault Refusal := execCommand .ptlon s

/-- NORON: the command transmission of OPC[NORON] (R58). -/
def execNoron (s : State) : Host.Outcome State Fault Refusal := execCommand .noron s

/-- INVOFF: the command transmission of OPC[INVOFF] (R58). -/
def execInvoff (s : State) : Host.Outcome State Fault Refusal := execCommand .invoff s

/-- INVON: the command transmission of OPC[INVON] (R58). -/
def execInvon (s : State) : Host.Outcome State Fault Refusal := execCommand .invon s

/-- DISPOFF: the command transmission of OPC[DISPOFF] (R58). -/
def execDispoff (s : State) : Host.Outcome State Fault Refusal := execCommand .dispoff s

/-- DISPON: the command transmission of OPC[DISPON] (R58). -/
def execDispon (s : State) : Host.Outcome State Fault Refusal := execCommand .dispon s

/-- CASET: the command transmission of OPC[CASET] (R58). -/
def execCaset (s : State) : Host.Outcome State Fault Refusal := execCommand .caset s

/-- RASET: the command transmission of OPC[RASET] (R58). -/
def execRaset (s : State) : Host.Outcome State Fault Refusal := execCommand .raset s

/-- RAMWR: the command transmission of OPC[RAMWR] (R58). -/
def execRamwr (s : State) : Host.Outcome State Fault Refusal := execCommand .ramwr s

/-- PTLAR: the command transmission of OPC[PTLAR] (R58). -/
def execPtlar (s : State) : Host.Outcome State Fault Refusal := execCommand .ptlar s

/-- VSCRDER: the command transmission of OPC[VSCRDER] (R58). -/
def execVscrder (s : State) : Host.Outcome State Fault Refusal := execCommand .vscrder s

/-- TEOFF: the command transmission of OPC[TEOFF] (R58). -/
def execTeoff (s : State) : Host.Outcome State Fault Refusal := execCommand .teoff s

/-- TEON: the command transmission of OPC[TEON] (R58). -/
def execTeon (s : State) : Host.Outcome State Fault Refusal := execCommand .teon s

/-- MADCTL: the command transmission of OPC[MADCTL] (R58). -/
def execMadctl (s : State) : Host.Outcome State Fault Refusal := execCommand .madctl s

/-- VSCAD: the command transmission of OPC[VSCAD] (R58). -/
def execVscad (s : State) : Host.Outcome State Fault Refusal := execCommand .vscad s

/-- COLMOD: the command transmission of OPC[COLMOD] (R58). -/
def execColmod (s : State) : Host.Outcome State Fault Refusal := execCommand .colmod s

/-- PORCTRL: the command transmission of OPC[PORCTRL] (R58). -/
def execPorctrl (s : State) : Host.Outcome State Fault Refusal := execCommand .porctrl s

/-- GCTRL: the command transmission of OPC[GCTRL] (R58). -/
def execGctrl (s : State) : Host.Outcome State Fault Refusal := execCommand .gctrl s

/-- VCOMS: the command transmission of OPC[VCOMS] (R58). -/
def execVcoms (s : State) : Host.Outcome State Fault Refusal := execCommand .vcoms s

/-- LCMCTRL: the command transmission of OPC[LCMCTRL] (R58). -/
def execLcmctrl (s : State) : Host.Outcome State Fault Refusal := execCommand .lcmctrl s

/-- VDVVRHEN: the command transmission of OPC[VDVVRHEN] (R58). -/
def execVdvvrhen (s : State) : Host.Outcome State Fault Refusal := execCommand .vdvvrhen s

/-- VRHS: the command transmission of OPC[VRHS] (R58). -/
def execVrhs (s : State) : Host.Outcome State Fault Refusal := execCommand .vrhs s

/-- VDVS: the command transmission of OPC[VDVS] (R58). -/
def execVdvs (s : State) : Host.Outcome State Fault Refusal := execCommand .vdvs s

/-- VCMOFSET: the command transmission of OPC[VCMOFSET] (R58). -/
def execVcmofset (s : State) : Host.Outcome State Fault Refusal := execCommand .vcmofset s

/-- FRCTRL2: the command transmission of OPC[FRCTRL2] (R58). -/
def execFrctrl2 (s : State) : Host.Outcome State Fault Refusal := execCommand .frctrl2 s

/-- PWCTRL1: the command transmission of OPC[PWCTRL1] (R58). -/
def execPwctrl1 (s : State) : Host.Outcome State Fault Refusal := execCommand .pwctrl1 s

/-- PVGAMCTRL: the command transmission of OPC[PVGAMCTRL] (R58). -/
def execPvgamctrl (s : State) : Host.Outcome State Fault Refusal := execCommand .pvgamctrl s

/-- NVGAMCTRL: the command transmission of OPC[NVGAMCTRL] (R58). -/
def execNvgamctrl (s : State) : Host.Outcome State Fault Refusal := execCommand .nvgamctrl s

end Sys2Proof.Machine
end

