-- ==== Sys2Proof/Machine/Addressing.lean ====
section
/-! DEFINITION. Addressing and orientation (43_addressing.md): SET_ORIENTATION (R122) and
SET_ADDRESS_WINDOW (R123). -/

namespace Sys2Proof.Machine

/-- The register writes of SET_ORIENTATION (R122). -/
def recordOrientation (o : Orientation) (s : State) : Run :=
  succeed (s.setAddressing o (offsets s.params.offsetAxis o s.sizeY))

/-- SET_ORIENTATION (R122): both transmissions, then the three registers together. -/
def execSetOrientation (o : Orientation) (s : State) : Host.Outcome State Fault Refusal :=
  ifLive s (respond
    (((xmitCommand .madctl s).andThen
      (xmitData (.u8 [s.params.madctlByte.get o]))).andThen
      (recordOrientation o)))

/-- Whether all four physical coordinates fit 16 bits (R123, D20). -/
def windowFits (sx sy ex ey : U16) (s : State) : Bool :=
  fits16 (physical sx s.xStart) && fits16 (physical ex s.xStart) &&
  fits16 (physical sy s.yStart) && fits16 (physical ey s.yStart)

/-- One coordinate as a data transmission of its own (R123, D19). -/
def xmitCoordinate (n : Nat) (s : State) : Run := xmitData (.u8 (be16 (narrow16 n))) s

/-- The six transmissions of an address window (R123): columns first, start before end. -/
def sendWindow (sx sy ex ey : U16) (s : State) : Run :=
  (((((xmitCommand .caset s).andThen
    (xmitCoordinate (physical sx s.xStart))).andThen
    (xmitCoordinate (physical ex s.xStart))).andThen
    (xmitCommand .raset)).andThen
    (xmitCoordinate (physical sy s.yStart))).andThen
    (xmitCoordinate (physical ey s.yStart))

/-- An operation that begins with an address window: refused, before any event, where a coordinate
sum does not fit (R123, R166). -/
def ifWindowFits (sx sy ex ey : U16) (s : State) (o : Host.Outcome State Fault Refusal) :
    Host.Outcome State Fault Refusal :=
  match windowFits sx sy ex ey s with
  | true => o
  | false => .refused .coordinateOverflow

/-- SET_ADDRESS_WINDOW (R123). -/
def execSetAddressWindow (sx sy ex ey : U16) (s : State) : Host.Outcome State Fault Refusal :=
  ifLive s (ifWindowFits sx sy ex ey s (respond (sendWindow sx sy ex ey s)))

end Sys2Proof.Machine
end

