-- ==== Sys2Proof/Machine/Init.lean ====
section
/-! DEFINITION. The initialization state machine (42_init.md): INIT (R100), its four transitions
(R101 to R104) and its failure edge (R105). -/

namespace Sys2Proof.Machine

/-- `PinSet(l, v)?` on RST or BL: a failure is the pin-signal error (R101, R102, R137). -/
def drivePin (l : Line) (v : Drive) (s : State) : Run := pinSetOr Err.pin l v s

/-- `PinSet(l, v)?; DelayUs(n)`: a failed drive is not followed by its delay. -/
def drivePinThenWait (l : Line) (v : Drive) (n : U32) (s : State) : Run :=
  (drivePin l v s).andThen (fun t => succeed (delayUs n t))

/-- Hard reset (R101): high, low, high, each followed by T_RST_US; nothing where RST is absent. -/
def hardReset (s : State) : Run :=
  match s.has.rst with
  | false => succeed s
  | true =>
    ((drivePinThenWait .rst .high s.params.tRstUs s).andThen
      (drivePinThenWait .rst .low s.params.tRstUs)).andThen
      (drivePinThenWait .rst .high s.params.tRstUs)

/-- Backlight engage (R102): low, wait T_BL_US, high; nothing where BL is absent. -/
def backlightEngage (s : State) : Run :=
  match s.has.bl with
  | false => succeed s
  | true => (drivePinThenWait .bl .low s.params.tBlUs s).andThen (drivePin .bl .high)

/-- The data of a register-program step: one `U8` data transmission if there is any (R103). -/
def sendStepData (data : List U8) (s : State) : Run :=
  match data with
  | [] => succeed s
  | d :: ds => xmitData (.u8 (d :: ds)) s

/-- One step of the register program: command, data if any, then its delay in any case (R103). -/
def playStep (step : RegStep) (s : State) : Run :=
  ((xmitCmd step.cmd s).andThen (sendStepData step.data)).andThen
    (fun t => succeed (delayUs step.settleUs t))

/-- The steps of a register program in list order (R103). -/
def playSteps : List RegStep → State → Run
  | [], s => succeed s
  | step :: rest, s => (playStep step s).andThen (playSteps rest)

/-- Register program (R103). -/
def registerProgram (s : State) : Run := playSteps s.params.regProgram s

/-- `XmitCmd(OPC[c])?; DelayUs(n)`. -/
def xmitCommandThenWait (c : Command) (n : U32) (s : State) : Run :=
  (xmitCommand c s).andThen (fun t => succeed (delayUs n t))

/-- Display-on (R104): inversion on, sleep out, display on, each followed by its delay. -/
def displayOn (s : State) : Run :=
  ((xmitCommandThenWait .invon s.params.tOn0Us s).andThen
    (xmitCommandThenWait .slpout s.params.tOn1Us)).andThen
    (xmitCommandThenWait .dispon s.params.tOn2Us)

/-- The four transitions with the phase writes between them (R100). -/
def initSequence (s : State) : Run :=
  ((((hardReset (s.setPhase .unpowered)).andThen
    (fun t => backlightEngage (t.setPhase .reset))).andThen
    registerProgram).andThen
    (fun t => displayOn (t.setPhase .registerProgrammed))).andThen
    (fun t => succeed (t.setPhase .displayOn))

/-- The failure edge (R105): any error leaves phase Unpowered. -/
def unpoweredOnError (r : Run) : Run :=
  match r.err with
  | none => r
  | some _ => { r with st := r.st.setPhase .unpowered }

/-- INIT (R100, R105). -/
def execInit (s : State) : Host.Outcome State Fault Refusal :=
  ifLive s (respond (unpoweredOnError (initSequence s)))

end Sys2Proof.Machine
end

