-- ==== Sys2Proof/Machine/Pixel.lean ====
section
/-! DEFINITION. The public pixel requests (44_pixel_api.md): SET_PIXEL, SET_PIXELS, BLIT_PIXELS,
SET_SCROLL_OFFSET, SET_TEARING_EFFECT, SET_BACKLIGHT, RELEASE. -/

namespace Sys2Proof.Machine

/-- The common shape of R130: window, memory-write command, one data transmission. -/
def sendPixels (sx sy ex ey : U16) (src : Source) (s : State) : Run :=
  ((sendWindow sx sy ex ey s).andThen (xmitCommand .ramwr)).andThen (xmitData src)

/-- SET_PIXEL (R132): the colour goes out as a two-byte `U8` slice. -/
def execSetPixel (x y color : U16) (s : State) : Host.Outcome State Fault Refusal :=
  ifLive s (ifWindowFits x y x y s (respond (sendPixels x y x y (.u8 (be16 color)) s)))

/-- SET_PIXELS (R133): the colours go out through the 16-bit big-endian iterator arm. -/
def execSetPixels (sx sy ex ey : U16) (colors : List U16) (s : State) :
    Host.Outcome State Fault Refusal :=
  ifLive s (ifWindowFits sx sy ex ey s
    (respondLent (sendPixels sx sy ex ey (.u16beIter colors) (s.lend (.halves colors)))))

/-- BLIT_PIXELS after the length test (R134): refusals first, then the window and one bus write. -/
def blit (sx sy dx dy : U16) (data : List U8) (s : State) : Host.Outcome State Fault Refusal :=
  if dx = 0 ∨ dy = 0 then .refused .blitZeroExtent
  else if fits16 (blitEnd sx dx) && fits16 (blitEnd sy dy) then
    ifWindowFits sx sy (narrow16 (blitEnd sx dx)) (narrow16 (blitEnd sy dy)) s
      (respondLent (sendPixels sx sy (narrow16 (blitEnd sx dx)) (narrow16 (blitEnd sy dy)) (.u8 data)
        (s.lend (.bytes data))))
  else .refused .blitEndOverflow

/-- BLIT_PIXELS (R134): a wrong length answers E_BLIT_LEN before any event. -/
def execBlitPixels (sx sy dx dy : U16) (data : List U8) (s : State) :
    Host.Outcome State Fault Refusal :=
  ifLive s
    (if data.length = blitLength dx dy then blit sx sy dx dy data s
     else respondLent (raiseErr s.params.eBlitLen (s.lend (.bytes data))))

/-- SET_SCROLL_OFFSET (R135). -/
def execSetScrollOffset (offset : U16) (s : State) : Host.Outcome State Fault Refusal :=
  ifLive s (respond ((xmitCommand .vscad s).andThen (xmitData (.u8 (be16 offset)))))

/-- The command and flag byte of a tearing mode that carries one (R136). -/
def xmitTearingFlag (flag : U8) (s : State) : Run :=
  (xmitCommand .teon s).andThen (xmitData (.u8 [flag]))

/-- SET_TEARING_EFFECT (R136): TEOFF alone, or TEON and a flag byte; mode 3 is refused. -/
def execSetTearingEffect (mode : TearingMode) (s : State) : Host.Outcome State Fault Refusal :=
  ifLive s
    (match mode with
     | .off => respond (xmitCommand .teoff s)
     | .vertical => respond (xmitTearingFlag 0x00 s)
     | .horizontalAndVertical => respond (xmitTearingFlag 0x01 s)
     | .reserved => .refused .reservedTearingMode)

/-- The level of BL for a backlight state: high is lit (R137). -/
def backlightDrive : BacklightState → Drive
  | .off => .low
  | .on => .high

/-- SET_BACKLIGHT (R137): drive BL and wait T_BL_US; nothing where BL is absent. -/
def execSetBacklight (state : BacklightState) (s : State) : Host.Outcome State Fault Refusal :=
  ifLive s (respond
    (match s.has.bl with
     | false => succeed s
     | true => drivePinThenWait .bl (backlightDrive state) s.params.tBlUs s))

/-- RELEASE (R138): no call, and it cannot fail. -/
def execRelease (s : State) : Host.Outcome State Fault Refusal :=
  ifLive s (respond (succeed (s.setReleased true)))

end Sys2Proof.Machine
end

