-- ==== Sys2Proof/Machine/Dispatch.lean ====
section
/-! DEFINITION. The dispatch: one arm per constructor of `Instr`, each one call of its meaning. -/

namespace Sys2Proof.Machine

def exec (i : Instr) (s : State) : Host.Outcome State Fault Refusal :=
  match i with
  -- requests (format REQ)
  | .init => Sys2Proof.Machine.execInit s
  | .setOrientation o => Sys2Proof.Machine.execSetOrientation o s
  | .setAddressWindow sx sy ex ey => Sys2Proof.Machine.execSetAddressWindow sx sy ex ey s
  | .setPixel x y color => Sys2Proof.Machine.execSetPixel x y color s
  | .setPixels sx sy ex ey colors => Sys2Proof.Machine.execSetPixels sx sy ex ey colors s
  | .blitPixels sx sy dx dy data => Sys2Proof.Machine.execBlitPixels sx sy dx dy data s
  | .setScrollOffset offset => Sys2Proof.Machine.execSetScrollOffset offset s
  | .setTearingEffect mode => Sys2Proof.Machine.execSetTearingEffect mode s
  | .setBacklight state => Sys2Proof.Machine.execSetBacklight state s
  | .release => Sys2Proof.Machine.execRelease s
  | .xmitCmd c => Sys2Proof.Machine.execXmitCmd c s
  | .xmitData src => Sys2Proof.Machine.execXmitData src s
  -- controller commands (format CMD8)
  | .nop => Sys2Proof.Machine.execNop s
  | .swreset => Sys2Proof.Machine.execSwreset s
  | .slpin => Sys2Proof.Machine.execSlpin s
  | .slpout => Sys2Proof.Machine.execSlpout s
  | .ptlon => Sys2Proof.Machine.execPtlon s
  | .noron => Sys2Proof.Machine.execNoron s
  | .invoff => Sys2Proof.Machine.execInvoff s
  | .invon => Sys2Proof.Machine.execInvon s
  | .dispoff => Sys2Proof.Machine.execDispoff s
  | .dispon => Sys2Proof.Machine.execDispon s
  | .caset => Sys2Proof.Machine.execCaset s
  | .raset => Sys2Proof.Machine.execRaset s
  | .ramwr => Sys2Proof.Machine.execRamwr s
  | .ptlar => Sys2Proof.Machine.execPtlar s
  | .vscrder => Sys2Proof.Machine.execVscrder s
  | .teoff => Sys2Proof.Machine.execTeoff s
  | .teon => Sys2Proof.Machine.execTeon s
  | .madctl => Sys2Proof.Machine.execMadctl s
  | .vscad => Sys2Proof.Machine.execVscad s
  | .colmod => Sys2Proof.Machine.execColmod s
  | .porctrl => Sys2Proof.Machine.execPorctrl s
  | .gctrl => Sys2Proof.Machine.execGctrl s
  | .vcoms => Sys2Proof.Machine.execVcoms s
  | .lcmctrl => Sys2Proof.Machine.execLcmctrl s
  | .vdvvrhen => Sys2Proof.Machine.execVdvvrhen s
  | .vrhs => Sys2Proof.Machine.execVrhs s
  | .vdvs => Sys2Proof.Machine.execVdvs s
  | .vcmofset => Sys2Proof.Machine.execVcmofset s
  | .frctrl2 => Sys2Proof.Machine.execFrctrl2 s
  | .pwctrl1 => Sys2Proof.Machine.execPwctrl1 s
  | .pvgamctrl => Sys2Proof.Machine.execPvgamctrl s
  | .nvgamctrl => Sys2Proof.Machine.execNvgamctrl s

end Sys2Proof.Machine
end

