-- ==== Sys2Proof/Machine/Issue.lean ====
section
/-! DEFINITION. The request port (00_scope.md R6, 30_encoding.md R51): taking the next request, decoding
it and executing it, and placing a request there from outside. -/

namespace Sys2Proof.Machine

/-- A request is decoded and executed; what does not decode is refused by name (R59, R166). -/
def runRequest (r : Request) (s : State) : Host.Outcome State Fault Refusal :=
  match decode r with
  | .ok i => exec i s
  | .error e => .refused (.undecodable e)

/-- The host issues its next request, which leaves the list of requests still to be issued. With none
left the block is idle and keeps all its registers (60_exceptions.md R174). -/
def runNextRequest (s : State) : Host.Outcome State Fault Refusal :=
  match s.requests with
  | [] => .next s
  | r :: rest => runRequest r (s.setRequests rest)

/-- A request placed first at the port. -/
def State.placeRequest (s : State) (r : Request) : State := s.setRequests (r :: s.requests)

end Sys2Proof.Machine
end

