-- ==== Sys2Proof/Machine/Step.lean ====
section
/-! DEFINITION. One step of the block, and the placing of a table word where the step takes its next
request. -/

namespace Sys2Proof.Machine

/-- One step: one request, run to its response (00_scope.md R6, 70_reset_and_hazards.md R200).

TOWARD PROVING (R196): every capability call of the step returns, and there is no time-out. So a step
always ends, and this model cannot see the hang of a request whose bus write, line drive or delay never
returns; R162 makes that return an assumption of every claim that a request ends (entry 19, unsafe). -/
def step (s : State) : Host.Outcome State Fault Refusal := runNextRequest s

/-- `s` with the instruction whose bits are `w` (in the opcode table's numbering) standing first at the
request port, so that the next step runs it (entries 12 to 14). -/
def State.withFetchWord (s : State) (nbits w : Nat) : State := s.placeRequest (tableRequest nbits w)

end Sys2Proof.Machine
end

