-- ==== Sys2Proof/Machine/Composite.lean ====
section
/-! DEFINITION. The composite requests as sequences of others (30_encoding.md R62), and the issue of
such a sequence one by one, stopping at the first error. -/

namespace Sys2Proof.Machine

/-- `XMIT_CMD OPC[c]`. -/
def cmdPart (s : State) (c : Command) : Instr := .xmitCmd (s.params.opc.get c)

/-- `XMIT_DATA U8, be16(v)`. -/
def wordPart (v : U16) : Instr := .xmitData (.u8 (be16 v))

/-- The expansion of an instruction in a state (R62); an instruction that is no composite stands for
itself. The coordinate sums are meaningful where they fit 16 bits. -/
def expand (s : State) : Instr → List Instr
  | .setAddressWindow sx sy ex ey =>
    [cmdPart s .caset, wordPart (narrow16 (physical sx s.xStart)),
      wordPart (narrow16 (physical ex s.xStart)), cmdPart s .raset,
      wordPart (narrow16 (physical sy s.yStart)), wordPart (narrow16 (physical ey s.yStart))]
  | .setPixel x y color =>
    [.setAddressWindow x y x y, cmdPart s .ramwr, wordPart color]
  | .setPixels sx sy ex ey colors =>
    [.setAddressWindow sx sy ex ey, cmdPart s .ramwr, .xmitData (.u16beIter colors)]
  | .blitPixels sx sy dx dy data =>
    [.setAddressWindow sx sy (narrow16 (blitEnd sx dx)) (narrow16 (blitEnd sy dy)),
      cmdPart s .ramwr, .xmitData (.u8 data)]
  | .setScrollOffset offset => [cmdPart s .vscad, wordPart offset]
  | .setTearingEffect .off => [cmdPart s .teoff]
  | .setTearingEffect .vertical => [cmdPart s .teon, .xmitData (.u8 [0x00])]
  | .setTearingEffect .horizontalAndVertical => [cmdPart s .teon, .xmitData (.u8 [0x01])]
  | i => [i]

/-- The response of the request that has just responded. -/
def State.lastResponse (s : State) : Option Response := s.responses.getLast?

/-- The host issues instructions one by one and stops at the first error. -/
def issueAll : List Instr → State → Host.Outcome State Fault Refusal
  | [], s => .next s
  | i :: rest, s =>
    match exec i s with
    | .next t => if t.lastResponse = some .ok then issueAll rest t else .next t
    | .fault f => .fault f
    | .refused r => .refused r

end Sys2Proof.Machine
end

