-- ==== Sys2Proof/Machine/Construct.lean ====
section
/-! DEFINITION. Construction, the reset of this block (70_reset_and_hazards.md R180, written NEW in
test programs), for every choice of straps, sizes and parameters. -/

namespace Sys2Proof.Machine

/-- The state a construction leaves (10_state.md R22). It makes no capability call. -/
def constructed (straps : Straps) (sx sy : U16) (params : Params) (env : Env) : State where
  sizeX := sx
  sizeY := sy
  orientation := .o0
  xStart := 0
  yStart := 0
  phase := .unpowered
  released := false
  has := straps
  lvl := { rst := .unknown, bl := .unknown, dc := .unknown, cs := .unknown }
  buf8 := []
  buf16 := []
  payload := .bytes []
  consumed := 0
  trace := []
  responses := []
  returned := []
  requests := []
  env := env
  params := params

/-- `NEW(has_rst, has_bl, has_dc, has_cs, sx, sy)` (R180): refused where `sy > 320`. -/
def construct (straps : Straps) (sx sy : U16) (params : Params) (env : Env) :
    Host.Outcome State Fault Refusal :=
  if Config.nativeDim < sy.toNat then .refused .sizeYTooLarge
  else .next (constructed straps sx sy params env)

end Sys2Proof.Machine
end

