-- ==== Sys2Proof/Machine/Views.lean ====
section
/-! DEFINITION. What is derived from the state and the trace: the packed registers HAS, LVL and the
codes of orientation and phase (10_state.md R12, R14, R16, R17), the response byte RSP (30_encoding.md
R63), the latches as the trace determines them, and the wire view (20_memory.md R37). -/

namespace Sys2Proof.Machine

/-! ## Packed registers -/

/-- The 4-bit register HAS: bit 0 RST, bit 1 BL, bit 2 DC, bit 3 CS (R16). -/
def State.hasReg (s : State) : BitVec 4 :=
  BitVec.ofBool s.has.cs ++ BitVec.ofBool s.has.dc ++ BitVec.ofBool s.has.bl ++
    BitVec.ofBool s.has.rst

/-- The code of a latch: `0b11` is never held (R17). -/
def Level.code : Level → BitVec 2
  | .unknown => 0b00
  | .low => 0b01
  | .high => 0b10

/-- The 8-bit register LVL: bits 1:0 RST, 3:2 BL, 5:4 DC, 7:6 CS (R17). -/
def State.lvlReg (s : State) : BitVec 8 :=
  s.lvl.cs.code ++ s.lvl.dc.code ++ s.lvl.bl.code ++ s.lvl.rst.code

/-- The code of a phase (R14). -/
def Phase.code : Phase → BitVec 2
  | .unpowered => 0b00
  | .reset => 0b01
  | .registerProgrammed => 0b10
  | .displayOn => 0b11

/-- The response byte RSP (R63); `Pin(e)` carries `e` beside the byte. -/
def Response.code : Response → U8
  | .ok => 0x00
  | .err (.pin _) => 0x01
  | .err .busWriteFailed => 0x02
  | .err .dcFailed => 0x03
  | .err .csFailed => 0x04
  | .err .formatNotImplemented => 0x05

/-! ## The latches along a trace (R17, D7) -/

/-- The latches before any drive. -/
def latchesUnknown : Latches :=
  { rst := .unknown, bl := .unknown, dc := .unknown, cs := .unknown }

/-- The latches after one event: the level last driven with answer `ok`, Unknown after a failure. -/
def latchesAfterEvent (l : Latches) : Event → Latches
  | .pin line v a => l.set line (latchAfter v a)
  | .bus _ _ => l
  | .delay _ => l

/-- The latches after a list of events. -/
def latchesAfter (l : Latches) (es : List Event) : Latches := es.foldl latchesAfterEvent l

/-! ## The wire view (R37) -/

/-- How the controller sees a byte. -/
inductive WireTag where
  | cmd | data | noDc | undef
deriving DecidableEq, Repr, Inhabited

/-- A byte on the wire with its tag, or the marker of a failed write, from which on the wire is
unspecified (R37, D18, U3). -/
inductive WireItem where
  | byte (t : WireTag) (b : U8)
  | failedWrite
deriving DecidableEq, Repr, Inhabited

/-- The tag of a bus write made while the DC latch holds a level. -/
def wireTag (hasDc : Bool) (l : Level) : WireTag :=
  match hasDc, l with
  | false, _ => .noDc
  | true, .low => .cmd
  | true, .high => .data
  | true, .unknown => .undef

/-- The wire view of a list of events, from given latches on; it ends at a failed write. -/
def wireFrom (hasDc : Bool) : Latches → List Event → List WireItem
  | _, [] => []
  | l, .bus bs .ok :: es => bs.map (WireItem.byte (wireTag hasDc l.dc)) ++ wireFrom hasDc l es
  | _, .bus _ .fail :: _ => [.failedWrite]
  | l, e :: es => wireFrom hasDc (latchesAfterEvent l e) es

/-- The wire view of the run so far. -/
def State.wireView (s : State) : List WireItem := wireFrom s.has.dc latchesUnknown s.trace

end Sys2Proof.Machine
end

