-- ==== Sys2Proof/Safety.lean ====
section
/-! DEFINITION. The terms the statements are made of: the environment that always answers `ok`, the
traces the spec tabulates (41_sequencer.md R95, 42_init.md R108), which requests the spec refuses
(60_exceptions.md R166), which error kinds it allows (R152), and the invariants of the block. They are
written from the spec's tables and closed forms, not from the meanings. -/

namespace Sys2Proof.Machine

/-! ## The environment -/

/-- "Every capability call answers `ok`" (R162). -/
def AnswersOk (s : State) : Prop := ∀ k, s.env.answer k = .ok

/-- The calls of a list of events were answered by an environment, in order, and left another: each
call takes one answer, a bus write drops the error value, a delay takes none (R162, 20_memory.md R34). -/
def answeredBy : Env → List Event → Env → Prop
  | e, [], e' => e' = e
  | e, .pin _ _ a :: es, e' => a = e.answer 0 ∧ answeredBy e.next es e'
  | e, .bus _ a :: es, e' => a = busAnswer (e.answer 0) ∧ answeredBy e.next es e'
  | e, .delay _ :: es, e' => answeredBy e es e'

/-- An event whose call failed. -/
def Event.failed : Event → Bool
  | .pin _ _ (.fail _) => true
  | .bus _ .fail => true
  | .pin _ _ .ok => false
  | .bus _ .ok => false
  | .delay _ => false

/-- The chip-select deassertion, whose failure is swallowed (R156). -/
def Event.isCsRelease : Event → Bool
  | .pin .cs .high _ => true
  | .pin .cs .low _ => false
  | .pin .rst _ _ => false
  | .pin .bl _ _ => false
  | .pin .dc _ _ => false
  | .bus _ _ => false
  | .delay _ => false

/-- A failed call that is reported: any but the deassertion (R156 (c)). -/
def Event.isReportedFailure (e : Event) : Bool := e.failed && !e.isCsRelease

/-- The error kind of a failed call (R152); none where the call did not fail. -/
def Event.errKind : Event → Option Err
  | .pin .rst _ (.fail e) => some (.pin e)
  | .pin .bl _ (.fail e) => some (.pin e)
  | .pin .dc _ (.fail _) => some .dcFailed
  | .pin .cs _ (.fail _) => some .csFailed
  | .bus _ .fail => some .busWriteFailed
  | .pin _ _ .ok => none
  | .bus _ .ok => none
  | .delay _ => none

/-- Whether the deassertion of chip-select follows a failed call (R156 (a)): it does inside a
transmission with CS present, and after a failed assertion where CS_RELEASE_ON_ASSERT_FAIL says so
(41_sequencer.md R90); RST and BL are driven outside transmissions. -/
def deassertionFollows (s : State) : Event → Bool
  | .pin .rst _ _ => false
  | .pin .bl _ _ => false
  | .pin .dc _ _ => s.has.cs
  | .pin .cs _ _ => s.params.csReleaseOnAssertFail
  | .bus _ _ => s.has.cs
  | .delay _ => false

/-- The bytes of a bus write. -/
def Event.busBytes : Event → List U8
  | .bus bs _ => bs
  | .pin _ _ _ => []
  | .delay _ => []

/-! ## The traces of successful operations (41_sequencer.md R95) -/

/-- The event of a line that is present. -/
def ifPresent (present : Bool) (e : Event) : List Event := if present then [e] else []

/-- The trace of one successful transmission with the given bus writes (the table of R95). -/
def bracketTrace (has : Straps) (kind : Kind) (writes : List (List U8)) : List Event :=
  ifPresent has.cs (.pin .cs .low .ok) ++ ifPresent has.dc (.pin .dc kind.dcLevel .ok) ++
    writes.map (fun bs => .bus bs .ok) ++ ifPresent has.cs (.pin .cs .high .ok)

/-- A list cut into runs of `n`, a remainder last if there is one (40_encoder.md R75). -/
def cuts {α : Type} (n : Nat) (l : List α) : List (List α) :=
  (List.range ((l.length + n - 1) / n)).map (fun k => (l.drop (n * k)).take n)

/-- The size `B` in bytes of the staging buffer a format is gathered into (R78); none for the slice
formats, which "behave as `B` unbounded", and for the unsupported one. -/
def stagingBytes : Source → Option Nat
  | .u8Iter _ => some 32
  | .u16beIter _ => some 64
  | .u16leIter _ => some 64
  | .u8 _ => none
  | .u16 _ => none
  | .u16be _ => none
  | .u16le _ => none
  | .unsupported _ => none

/-- The bus writes of a successful encoder call (R71 to R77, R80). -/
def expectedWrites (native : ByteOrder) : Source → List (List U8)
  | .u8 p => [p]
  | .u16 p => [p.flatMap (bytes16 native)]
  | .u16be p => [p.flatMap be16]
  | .u16le p => [p.flatMap le16]
  | .u8Iter p => cuts 32 p
  | .u16beIter p => (cuts 32 p).map (fun run => run.flatMap be16)
  | .u16leIter p => (cuts 32 p).map (fun run => run.flatMap le16)
  | .unsupported _ => []

/-- The successful command transmission of a mnemonic. -/
def commandTrace (s : State) (c : Command) : List Event :=
  bracketTrace s.has .cmd [[s.params.opc.get c]]

/-- The successful data transmission of a source. -/
def dataTrace (s : State) (src : Source) : List Event :=
  bracketTrace s.has .data (expectedWrites s.params.nativeOrder src)

/-- The successful data transmission of a 16-bit value, high byte first. -/
def wordTrace (s : State) (v : U16) : List Event := dataTrace s (.u8 (be16 v))

/-- The successful address window (43_addressing.md R123), for sums that fit 16 bits. -/
def windowTrace (s : State) (sx sy ex ey : U16) : List Event :=
  commandTrace s .caset ++ wordTrace s (sx + s.xStart) ++ wordTrace s (ex + s.xStart) ++
    commandTrace s .raset ++ wordTrace s (sy + s.yStart) ++ wordTrace s (ey + s.yStart)

/-- A successful drive of RST or BL. -/
def driveOk (l : Line) (v : Drive) : Event := .pin l v .ok

/-- The successful step of a register program (42_init.md R103). -/
def stepTrace (s : State) (r : RegStep) : List Event :=
  bracketTrace s.has .cmd [[r.cmd]] ++
    (if r.data = [] then [] else dataTrace s (.u8 r.data)) ++ [.delay r.settleUs]

/-- The trace of a successful INIT (R108): the concatenation, in order, of its four transitions. -/
def initTrace (s : State) : List Event :=
  (if s.has.rst then
    [driveOk .rst .high, .delay s.params.tRstUs, driveOk .rst .low, .delay s.params.tRstUs,
      driveOk .rst .high, .delay s.params.tRstUs] else []) ++
  (if s.has.bl then [driveOk .bl .low, .delay s.params.tBlUs, driveOk .bl .high] else []) ++
  s.params.regProgram.flatMap (stepTrace s) ++
  (commandTrace s .invon ++ [.delay s.params.tOn0Us]) ++
  (commandTrace s .slpout ++ [.delay s.params.tOn1Us]) ++
  (commandTrace s .dispon ++ [.delay s.params.tOn2Us])

/-- The latches after a successful transmission: DC at the kind's level and CS high, where present. -/
def latchesAfterXmit (has : Straps) (kind : Kind) (l : Latches) : Latches :=
  { l with
    dc := if has.dc then kind.dcLevel.level else l.dc
    cs := if has.cs then .high else l.cs }

/-- The latches after a successful INIT, whose last transmissions are commands. -/
def latchesAfterInit (has : Straps) (l : Latches) : Latches :=
  latchesAfterXmit has .cmd
    { l with
      rst := if has.rst then .high else l.rst
      bl := if has.bl then .high else l.bl }

/-- The state after a request that did nothing but calls: these events, these latches, this response,
and an environment that has answered the calls. Everything else is as before. -/
def afterCalls (s : State) (es : List Event) (l : Latches) (r : Response) (env : Env) : State :=
  { s with
    trace := s.trace ++ es
    lvl := l
    responses := s.responses ++ [r]
    env := env }

/-! ## Payloads after a data request (20_memory.md R32, 40_encoder.md R73, R74) -/

/-- The requests that carry a payload (10_state.md R23): SET_PIXELS, BLIT_PIXELS and XMIT_DATA. -/
def IsDataRequest (i : Instr) : Prop :=
  (∃ sx sy ex ey colors, i = .setPixels sx sy ex ey colors) ∨
    (∃ sx sy dx dy data, i = .blitPixels sx sy dx dy data) ∨ (∃ src, i = .xmitData src)

/-- The lent buffer after the encoder has run, whether or not its bus write succeeded. -/
def payloadAfter (native : ByteOrder) : Source → Payload
  | .u16be p => .halves (p.map (convert16 .be native))
  | .u16le p => .halves (p.map (convert16 .le native))
  | .u8 p => .bytes p
  | .u16 p => .halves p
  | .u8Iter p => .bytes p
  | .u16beIter p => .halves p
  | .u16leIter p => .halves p
  | .unsupported p => p

/-- The number of elements a successful request has pulled from its iterator. -/
def consumedAfter : Source → Nat
  | .u8Iter p => p.length
  | .u16beIter p => p.length
  | .u16leIter p => p.length
  | .u8 _ => 0
  | .u16 _ => 0
  | .u16be _ => 0
  | .u16le _ => 0
  | .unsupported _ => 0

/-- The byte staging buffer after XMIT_DATA of a source whose encoder ran: dead where it was used (R18). -/
def buf8After (s : State) : Source → List U8
  | .u8Iter _ => []
  | .u8 _ => s.buf8
  | .u16 _ => s.buf8
  | .u16be _ => s.buf8
  | .u16le _ => s.buf8
  | .u16beIter _ => s.buf8
  | .u16leIter _ => s.buf8
  | .unsupported _ => s.buf8

/-- The 16-bit staging buffer after XMIT_DATA of a source whose encoder ran. -/
def buf16After (s : State) : Source → List U16
  | .u16beIter _ => []
  | .u16leIter _ => []
  | .u8Iter _ => s.buf16
  | .u8 _ => s.buf16
  | .u16 _ => s.buf16
  | .u16be _ => s.buf16
  | .u16le _ => s.buf16
  | .unsupported _ => s.buf16

/-- The response of an XMIT_DATA all of whose calls answer `ok`. -/
def dataResponse : Source → Response
  | .unsupported _ => .err .formatNotImplemented
  | .u8 _ => .ok
  | .u16 _ => .ok
  | .u16be _ => .ok
  | .u16le _ => .ok
  | .u8Iter _ => .ok
  | .u16beIter _ => .ok
  | .u16leIter _ => .ok

/-! ## Refusals (60_exceptions.md R166) -/

/-- A window one of whose four physical coordinates does not fit 16 bits. -/
def WindowOverflows (s : State) (sx sy ex ey : U16) : Prop :=
  65536 ≤ sx.toNat + s.xStart.toNat ∨ 65536 ≤ ex.toNat + s.xStart.toNat ∨
    65536 ≤ sy.toNat + s.yStart.toNat ∨ 65536 ≤ ey.toNat + s.yStart.toNat

/-- A blit the spec refuses: its length is right and its window has no meaning. -/
def BlitRefused (s : State) (sx sy dx dy : U16) (data : List U8) : Prop :=
  data.length = dx.toNat * dy.toNat * 2 ∧
    (dx = 0 ∨ dy = 0 ∨ 65536 ≤ sx.toNat + dx.toNat - 1 ∨ 65536 ≤ sy.toNat + dy.toNat - 1 ∨
      WindowOverflows s sx sy (sx + dx - 1) (sy + dy - 1))

/-- The rows of R166's table that concern a request of a live or released instance. -/
def RefusedByRule (s : State) : Instr → Prop
  | .setTearingEffect mode => s.released = true ∨ mode = .reserved
  | .setAddressWindow sx sy ex ey => s.released = true ∨ WindowOverflows s sx sy ex ey
  | .setPixel x y _ => s.released = true ∨ WindowOverflows s x y x y
  | .setPixels sx sy ex ey _ => s.released = true ∨ WindowOverflows s sx sy ex ey
  | .blitPixels sx sy dx dy data => s.released = true ∨ BlitRefused s sx sy dx dy data
  | .init | .setOrientation _ | .setScrollOffset _ | .setBacklight _ | .release | .xmitCmd _
  | .xmitData _ | .nop | .swreset | .slpin | .slpout | .ptlon | .noron | .invoff | .invon
  | .dispoff | .dispon | .caset | .raset | .ramwr | .ptlar | .vscrder | .teoff
  | .teon | .madctl | .vscad | .colmod | .porctrl | .gctrl | .vcoms | .lcmctrl
  | .vdvvrhen | .vrhs | .vdvs | .vcmofset | .frctrl2 | .pwctrl1 | .pvgamctrl | .nvgamctrl => s.released = true

/-! ## Error kinds (60_exceptions.md R152) -/

/-- The second table of R152: which request can raise which kind. The length test of BLIT_PIXELS
raises the parameter E_BLIT_LEN. -/
def mayRaise (s : State) (i : Instr) (k : Err) : Prop :=
  match i with
  | .init => k ≠ .formatNotImplemented
  | .setBacklight _ => ∃ e, k = .pin e
  | .release => False
  | .blitPixels _ _ _ _ _ =>
    k = .busWriteFailed ∨ k = .dcFailed ∨ k = .csFailed ∨ k = s.params.eBlitLen
  | .xmitData _ =>
    k = .busWriteFailed ∨ k = .dcFailed ∨ k = .csFailed ∨ k = .formatNotImplemented
  | .setOrientation _ | .setAddressWindow _ _ _ _ | .setPixel _ _ _ | .setPixels _ _ _ _ _
  | .setScrollOffset _ | .setTearingEffect _ | .xmitCmd _
  | .nop | .swreset | .slpin | .slpout | .ptlon | .noron | .invoff | .invon
  | .dispoff | .dispon | .caset | .raset | .ramwr | .ptlar | .vscrder | .teoff
  | .teon | .madctl | .vscad | .colmod | .porctrl | .gctrl | .vcoms | .lcmctrl
  | .vdvvrhen | .vrhs | .vdvs | .vcmofset | .frctrl2 | .pwctrl1 | .pvgamctrl | .nvgamctrl =>
    k = .busWriteFailed ∨ k = .dcFailed ∨ k = .csFailed

/-! ## Invariants -/

/-- The registers are coherent between requests: the bound of construction (R180), the offsets of the
orientation (10_state.md R13), a phase INIT can end in (R100, R105), nothing gathered in the staging
buffers (R18), Unknown latches for absent lines (R17), and chip-select not left driven low (R90). -/
structure RegistersCoherent (s : State) : Prop where
  sizeBound : s.sizeY.toNat ≤ 320
  offsetsFresh : (s.xStart, s.yStart) = offsets s.params.offsetAxis s.orientation s.sizeY
  phaseSettled : s.phase = .unpowered ∨ s.phase = .displayOn
  buf8Empty : s.buf8 = []
  buf16Empty : s.buf16 = []
  absentUnknown : ∀ l, s.has.get l = false → s.lvl.get l = .unknown
  csNotLow : s.lvl.cs ≠ .low

/-- A drive is made only of a present line (00_scope.md R8); a bus write only while DC, if present, is
at a known level and CS, if present, is low (41_sequencer.md R92 (a), (c)). -/
def callAllowed (has : Straps) (l : Latches) : Event → Bool
  | .pin line _ _ => has.get line
  | .bus _ _ => (!has.dc || decide (l.dc ≠ .unknown)) && (!has.cs || decide (l.cs = .low))
  | .delay _ => true

/-- Every call of a list of events is allowed at the latches it is made with. -/
def callsAllowed (has : Straps) : Latches → List Event → Bool
  | _, [] => true
  | l, e :: es => callAllowed has l e && callsAllowed has (latchesAfterEvent l e) es

/-- The trace is coherent: the latches are what the trace says (D7), and every call in it was made as
the bracket of R90 makes it. -/
structure TraceCoherent (s : State) : Prop where
  latches : s.lvl = latchesAfter latchesUnknown s.trace
  calls : callsAllowed s.has latchesUnknown s.trace = true

end Sys2Proof.Machine
end

