-- ==== Sys2Proof/Certificates/Slice0/Obligations.lean ====
section
/-! DEFINITION. The statements for the provers, each a `def Obligations.<Name> : Prop`. A statement
about a successful run assumes `AnswersOk s` (R162: a claim that needs success says so as a premise);
the others hold for every environment. The parameters of 00_scope.md R5 stand in `s.params` and are
quantified over with the state. -/

open Sys2Proof Sys2Proof.Machine

/-! ## Encodings -/

/-- 30_encoding.md R51 to R54, R58: no bit of an encoding is dropped, for every instruction and every
operand the encoding admits. -/
def Obligations.EncodeThenDecodeGivesTheInstruction : Prop :=
  ∀ i : Instr, WellFormed i → decode (encode i) = .ok i

/-- R51, R59: what an operation does not use is ignored: `REQ[67]`, its unused slots and, for an
operation without payload, the payload. -/
def Obligations.UnusedRequestFieldsAreIgnored : Prop :=
  ∀ (w w' : BitVec 72) (p p' : Payload), reqOp w = reqOp w' →
    ((reqOp w = 0x0 ∨ reqOp w = 0x9) → decode (.req w p) = decode (.req w' p')) ∧
    ((reqOp w = 0x1 ∨ reqOp w = 0x7) →
      (reqA0 w).extractLsb' 0 2 = (reqA0 w').extractLsb' 0 2 →
      decode (.req w p) = decode (.req w' p')) ∧
    (reqOp w = 0x8 → (reqA0 w).extractLsb' 0 1 = (reqA0 w').extractLsb' 0 1 →
      decode (.req w p) = decode (.req w' p')) ∧
    (reqOp w = 0xA → (reqA0 w).extractLsb' 0 8 = (reqA0 w').extractLsb' 0 8 →
      decode (.req w p) = decode (.req w' p')) ∧
    (reqOp w = 0x6 → reqA0 w = reqA0 w' → decode (.req w p) = decode (.req w' p')) ∧
    (reqOp w = 0x3 → reqA0 w = reqA0 w' → reqA1 w = reqA1 w' → reqA2 w = reqA2 w' →
      decode (.req w p) = decode (.req w' p')) ∧
    (reqOp w = 0x2 → reqA0 w = reqA0 w' → reqA1 w = reqA1 w' → reqA2 w = reqA2 w' →
      reqA3 w = reqA3 w' → decode (.req w p) = decode (.req w' p')) ∧
    ((reqOp w = 0x4 ∨ reqOp w = 0x5) → reqA0 w = reqA0 w' → reqA1 w = reqA1 w' →
      reqA2 w = reqA2 w' → reqA3 w = reqA3 w' → decode (.req w p) = decode (.req w' p)) ∧
    (reqOp w = 0xB → reqFmt w = reqFmt w' → decode (.req w p) = decode (.req w' p))

/-- R59, R166: `op` 0xC to 0xF and tearing mode 3 are refused at the step, whatever else the word
holds. The name of the refusal, and that it is this one for a released instance too, since a step decodes
first, are the model's choice (entry 25). -/
def Obligations.ReservedEncodingsAreRefused : Prop :=
  ∀ (s : State) (w : BitVec 72) (p : Payload) (rest : List Request),
    s.requests = .req w p :: rest →
    (12 ≤ (reqOp w).toNat → step s = .refused (.undecodable .reservedOperation)) ∧
    (reqOp w = 0x7 → (reqA0 w).extractLsb' 0 2 = 3 →
      step s = .refused (.undecodable .reservedTearingMode))

/-- R59 says such a request cannot be written down; that the decoder refuses it, and by what name, is the
model's choice (entry 15 for a payload of the wrong element type, entry 16 for a byte in no row of R58). -/
def Obligations.MismatchedPayloadsAndUnassignedBytesAreRefused : Prop :=
  ∀ (s : State) (w : BitVec 72) (bs : List U8) (hs : List U16) (b : U8) (rest : List Request),
    (s.requests = .req w (.bytes bs) :: rest →
      (reqOp w = 0x4 ∨
        (reqOp w = 0xB ∧
          (reqFmt w = 1 ∨ reqFmt w = 2 ∨ reqFmt w = 3 ∨ reqFmt w = 5 ∨ reqFmt w = 6))) →
      step s = .refused (.undecodable .payloadTypeMismatch)) ∧
    (s.requests = .req w (.halves hs) :: rest →
      (reqOp w = 0x5 ∨ (reqOp w = 0xB ∧ (reqFmt w = 0 ∨ reqFmt w = 4))) →
      step s = .refused (.undecodable .payloadTypeMismatch)) ∧
    (s.requests = .cmd8 b :: rest → (∀ c : Command, c.tableByte ≠ b) →
      step s = .refused (.undecodable .unassignedCommandByte))

/-- Words of 95_test_vectors.md and rows of R58 decode to the instruction they stand for. That a row of
R58 is an instruction is the model's choice (entry 1). -/
def Obligations.WordsOfTheSpecDecode : Prop :=
  decode (.req 0x3000050007F8000000 (.bytes [])) = .ok (.setPixel 5 7 0xF800) ∧
  decode (.req 0x3800050007F8000000 (.bytes [])) = .ok (.setPixel 5 7 0xF800) ∧
  decode (.req 0x100003000000000000 (.bytes [])) = .ok (.setOrientation .o3) ∧
  decode (.req 0x200000000000EF00EF (.bytes [])) = .ok (.setAddressWindow 0 0 239 239) ∧
  decode (.req 0x700002000000000000 (.bytes [])) = .ok (.setTearingEffect .horizontalAndVertical) ∧
  decode (.req 0xA0002C000000000000 (.bytes [])) = .ok (.xmitCmd 0x2C) ∧
  decode (.req 0xB70000000000000000 (.bytes [1, 2, 3])) =
    .ok (.xmitData (.unsupported (.bytes [1, 2, 3]))) ∧
  decode (.cmd8 0x2A) = .ok .caset ∧
  decode (.cmd8 0xE1) = .ok .nvgamctrl

/-! ## The step -/

/-- A step runs the decoded request with the request taken from the port; with no request the block is
idle; what does not decode is refused by name. The list of requests and the idle step are the model's
choice (entry 12). -/
def Obligations.StepRunsTheDecodedRequest : Prop :=
  ∀ (s : State) (r : Request) (rest : List Request),
    (s.requests = r :: rest → ∀ i, decode r = .ok i → step s = exec i (s.setRequests rest)) ∧
    (s.requests = r :: rest → ∀ e, decode r = .error e → step s = .refused (.undecodable e)) ∧
    (s.requests = [] → step s = .next s)

/-- 60_exceptions.md R163: live from construction, released by RELEASE alone, and then for ever: no
request of a released instance has a step. That a step decodes first, so that a request that does not
decode is refused under that name on a released instance too, is the model's choice (entry 25). -/
def Obligations.ReleaseIsTheOnlyTransitionOfTheLifecycle : Prop :=
  (∀ straps sx sy params env, (constructed straps sx sy params env).released = false) ∧
  (∀ (i : Instr) (s t : State), exec i s = .next t →
    s.released = false ∧ (t.released = true ↔ i = .release)) ∧
  (∀ (i : Instr) (s : State), s.released = true → exec i s = .refused .afterRelease) ∧
  (∀ (s : State) (r : Request) (rest : List Request), s.released = true → s.requests = r :: rest →
    (∀ i, decode r = .ok i → step s = .refused .afterRelease) ∧
    (∀ e, decode r = .error e → step s = .refused (.undecodable e)))

/-- 60_exceptions.md R166 and R150: an instruction is refused exactly where the rule's table says, but for
a BLIT_PIXELS of wrong length, and everywhere else it has a next state; it never faults. A blit of wrong
length answers E_BLIT_LEN even where its window meets a row of the table, because 44_pixel_api.md R134
makes the length test first; that order of the tests is log entry 25. -/
def Obligations.RefusedExactlyWhereTheRuleSays : Prop :=
  ∀ (i : Instr) (s : State),
    (RefusedByRule s i → ∃ r, exec i s = .refused r) ∧
    (¬ RefusedByRule s i → ∃ t, exec i s = .next t)

/-! ## Transmissions -/

/-- 41_sequencer.md R93, R95: XMIT_CMD makes one bracket around one bus write of its byte. -/
def Obligations.XmitCmdSendsItsByte : Prop :=
  ∀ (s : State) (c : U8), s.released = false → AnswersOk s →
    ∃ env, exec (.xmitCmd c) s =
      .next (afterCalls s (bracketTrace s.has .cmd [[c]]) (latchesAfterXmit s.has .cmd s.lvl) .ok env)

/-- R58, R55 for the thirty-two command rows (NOP, SWRESET, SLPIN, SLPOUT, PTLON, NORON, INVOFF, INVON,
DISPOFF, DISPON, CASET, RASET, RAMWR, PTLAR, VSCRDER, TEOFF, TEON, MADCTL, VSCAD, COLMOD, PORCTRL,
GCTRL, VCOMS, LCMCTRL, VDVVRHEN, VRHS, VDVS, VCMOFSET, FRCTRL2, PWCTRL1, PVGAMCTRL, NVGAMCTRL): each
completes, sending OPC of its mnemonic as a command. That a row is an instruction, and is XMIT_CMD of
its byte, is the model's choice (entry 1). -/
def Obligations.CommandRowsSendTheirByte : Prop :=
  ∀ (i : Instr) (c : Command) (s : State), i.command? = some c →
    exec i s = exec (.xmitCmd (s.params.opc.get c)) s ∧
    (s.released = false → AnswersOk s →
      ∃ env, exec i s =
        .next (afterCalls s (commandTrace s c) (latchesAfterXmit s.has .cmd s.lvl) .ok env))

/-- 41_sequencer.md R94, R95 with 40_encoder.md R71 to R77 and R80: XMIT_DATA of each of the eight
formats makes one bracket around the format's bus writes, leaves the payload and the count of consumed
elements as the format does, gives the buffer back so, and leaves the staging buffer it used dead. That a
dead buffer reads empty is the model's choice (entry 10). -/
def Obligations.XmitDataSendsItsPayload : Prop :=
  ∀ (s : State) (src : Source), s.released = false → AnswersOk s →
    ∃ env, exec (.xmitData src) s =
      .next { afterCalls s (dataTrace s src) (latchesAfterXmit s.has .data s.lvl)
                (dataResponse src) env with
              payload := payloadAfter s.params.nativeOrder src
              consumed := consumedAfter src
              returned := s.returned ++
                [{ buffer := payloadAfter s.params.nativeOrder src, consumed := consumedAfter src }]
              buf8 := buf8After s src
              buf16 := buf16After s src }

/-- 40_encoder.md R78, chunking transparency: in every run of the encoder in which all bus writes
succeed, the bytes written, in call order, are `Bytes(fmt, p)`; they are split only at the boundaries of
the staging buffer: every write but the last is of its full 32 or 64 bytes, and a slice is one write; so
the wire view, at whatever level the DC latch holds, is `Bytes(fmt, p)`, the same for an iterator and for
the slice of its elements. -/
def Obligations.ChunkingIsTransparent : Prop :=
  ∀ (src : Source) (s : State),
    ∃ es, (encodeSource src s).st.trace = s.trace ++ es ∧
      ((∀ e ∈ es, e.failed = false) →
        (es.map Event.busBytes).flatten = sourceBytes s.params.nativeOrder src ∧
        (∀ pre e post, es = pre ++ e :: post → post ≠ [] →
          stagingBytes src = some e.busBytes.length) ∧
        (∀ hasDc l, wireFrom hasDc l es =
          (sourceBytes s.params.nativeOrder src).map (WireItem.byte (wireTag hasDc l.dc))))

/-- 40_encoder.md R71 to R77 and R80, with the decisions D13 (an empty slice is one write of no bytes) and
D14 (no empty write after a full staging buffer): the bus writes of an encoder call all of whose writes
succeed, one by one. -/
def Obligations.EncoderMakesTheWritesOfItsFormat : Prop :=
  ∀ (src : Source) (s : State),
    ∃ es, (encodeSource src s).st.trace = s.trace ++ es ∧
      ((∀ e ∈ es, e.failed = false) →
        es = (expectedWrites s.params.nativeOrder src).map (fun bs => .bus bs .ok) ∧
        ((encodeSource src s).err = none ↔ ∀ p, src ≠ .unsupported p))

/-- 40_encoder.md R70, R79: the first failed write ends the encoder call with BusWriteFailed; every
write before it succeeded; what was written, the failing write included, is a beginning of
`Bytes(fmt, p)`; and an iterator is consumed exactly as far as it was gathered (entry 26). -/
def Obligations.EncoderStopsAtTheFirstFailedWrite : Prop :=
  ∀ (src : Source) (s : State),
    ∃ es, (encodeSource src s).st.trace = s.trace ++ es ∧
      ((encodeSource src s).err = some .busWriteFailed ↔ ∃ e ∈ es, e.failed = true) ∧
      ((encodeSource src s).err = some .busWriteFailed →
        ∃ ws bs, es = ws ++ [.bus bs .fail] ∧ (∀ e ∈ ws, ∃ b, e = .bus b .ok) ∧
          (es.map Event.busBytes).flatten <+: sourceBytes s.params.nativeOrder src ∧
          (∀ p, src = .u8Iter p →
            (encodeSource src s).st.consumed = s.consumed + (es.map Event.busBytes).flatten.length) ∧
          (∀ p, src = .u16beIter p ∨ src = .u16leIter p →
            2 * (encodeSource src s).st.consumed =
              2 * s.consumed + (es.map Event.busBytes).flatten.length))

/-- 41_sequencer.md R90, 60_exceptions.md R157 (c), 20_memory.md R32, 40_encoder.md R73, R74, R79: what
XMIT_DATA leaves in the host's buffer. Under R90 a failed drive of chip-select or of the data/command line
skips the encoder, so the buffer is as the host lent it. Once the encoder was reached, the in-place formats
have converted all of it, also when the bus write failed; every other format leaves it as lent. R190 of
70_reset_and_hazards.md, that the buffer holds swapped values "also when the request failed", is read under
R90: of a request that failed in the encoder, which alone converts ("as the encoder left it", R157 (c)). -/
def Obligations.HostBufferAfterXmitData : Prop :=
  ∀ (s t : State) (src : Source), exec (.xmitData src) s = .next t →
    (t.lastResponse = some (.err .csFailed) ∨ t.lastResponse = some (.err .dcFailed) →
      t.payload = src.payload) ∧
    (t.lastResponse ≠ some (.err .csFailed) → t.lastResponse ≠ some (.err .dcFailed) →
      t.payload = payloadAfter s.params.nativeOrder src)

/-- 70_reset_and_hazards.md R190, 40_encoder.md R73: XMIT_DATA of the buffer that an XMIT_DATA in the same
in-place format has left. On a host of the other native order the second one sends the opposite byte order
and the buffer holds the original values again; on a host of the format's own order both send the same. -/
def Obligations.SendingAConvertedBufferAgainSwapsIt : Prop :=
  ∀ (s : State) (p : List U16), s.released = false → AnswersOk s →
    (s.params.nativeOrder = .le → ∃ t q u, exec (.xmitData (.u16be p)) s = .next t ∧
      t.payload = .halves q ∧ exec (.xmitData (.u16be q)) t = .next u ∧ u.payload = .halves p ∧
      t.trace = s.trace ++ bracketTrace s.has .data [p.flatMap be16] ∧
      u.trace = t.trace ++ bracketTrace s.has .data [p.flatMap le16]) ∧
    (s.params.nativeOrder = .be → ∃ t q u, exec (.xmitData (.u16le p)) s = .next t ∧
      t.payload = .halves q ∧ exec (.xmitData (.u16le q)) t = .next u ∧ u.payload = .halves p ∧
      t.trace = s.trace ++ bracketTrace s.has .data [p.flatMap le16] ∧
      u.trace = t.trace ++ bracketTrace s.has .data [p.flatMap be16]) ∧
    (s.params.nativeOrder = .be → ∃ t u, exec (.xmitData (.u16be p)) s = .next t ∧
      t.payload = .halves p ∧ exec (.xmitData (.u16be p)) t = .next u ∧ u.payload = .halves p ∧
      t.trace = s.trace ++ bracketTrace s.has .data [p.flatMap be16] ∧
      u.trace = t.trace ++ bracketTrace s.has .data [p.flatMap be16]) ∧
    (s.params.nativeOrder = .le → ∃ t u, exec (.xmitData (.u16le p)) s = .next t ∧
      t.payload = .halves p ∧ exec (.xmitData (.u16le p)) t = .next u ∧ u.payload = .halves p ∧
      t.trace = s.trace ++ bracketTrace s.has .data [p.flatMap le16] ∧
      u.trace = t.trace ++ bracketTrace s.has .data [p.flatMap le16])

/-- 20_memory.md R39: converting to bytes and back recovers the value, the swap is its own inverse, and
a value sent big-endian is seen as its high byte, then its low byte. -/
def Obligations.ByteOrderRoundTrips : Prop :=
  ∀ v : U16,
    ((hi8 v).setWidth 16 <<< 8) ||| (lo8 v).setWidth 16 = v ∧
    bswap16 (bswap16 v) = v ∧
    be16 v = [v.extractLsb' 8 8, v.extractLsb' 0 8] ∧
    le16 v = [v.extractLsb' 0 8, v.extractLsb' 8 8]

/-- 41_sequencer.md R96 for a command transmission with CS and DC present: the trace, the response and
the two latches for each place it can fail, by the environment's first four answers. -/
def Obligations.CommandTransmissionByPlaceOfFailure : Prop :=
  ∀ (s : State) (c : U8) (a0 a1 a2 a3 : Answer),
    s.released = false → s.has.cs = true → s.has.dc = true →
    s.env.answer 0 = a0 → s.env.answer 1 = a1 → s.env.answer 2 = a2 → s.env.answer 3 = a3 →
    (a0 = .ok → a1 = .ok → a2 = .ok →
      ∃ env, exec (.xmitCmd c) s = .next (afterCalls s
        [.pin .cs .low .ok, .pin .dc .low .ok, .bus [c] .ok, .pin .cs .high a3]
        { s.lvl with dc := .low, cs := latchAfter .high a3 } .ok env)) ∧
    (a0 ≠ .ok → s.params.csReleaseOnAssertFail = true →
      ∃ env, exec (.xmitCmd c) s = .next (afterCalls s
        [.pin .cs .low a0, .pin .cs .high a1]
        { s.lvl with cs := latchAfter .high a1 } (.err .csFailed) env)) ∧
    (a0 ≠ .ok → s.params.csReleaseOnAssertFail = false →
      ∃ env, exec (.xmitCmd c) s = .next (afterCalls s [.pin .cs .low a0]
        { s.lvl with cs := .unknown } (.err .csFailed) env)) ∧
    (a0 = .ok → a1 ≠ .ok →
      ∃ env, exec (.xmitCmd c) s = .next (afterCalls s
        [.pin .cs .low .ok, .pin .dc .low a1, .pin .cs .high a2]
        { s.lvl with dc := .unknown, cs := latchAfter .high a2 } (.err .dcFailed) env)) ∧
    (a0 = .ok → a1 = .ok → a2 ≠ .ok →
      ∃ env, exec (.xmitCmd c) s = .next (afterCalls s
        [.pin .cs .low .ok, .pin .dc .low .ok, .bus [c] .fail, .pin .cs .high a3]
        { s.lvl with dc := .low, cs := latchAfter .high a3 } (.err .busWriteFailed) env))

/-- 41_sequencer.md R92 (b), R90: with CS present (and the decided CS_RELEASE_ON_ASSERT_FAIL), every
transmission, however it ends, begins with the one assertion and ends with the one deassertion. -/
def Obligations.EveryTransmissionDeassertsChipSelectOnce : Prop :=
  ∀ (kind : Kind) (src : Source) (s : State), s.has.cs = true →
    s.params.csReleaseOnAssertFail = true →
    ∃ a inner b, (xmit kind src s).st.trace =
        s.trace ++ ([.pin .cs .low a] ++ inner ++ [.pin .cs .high b]) ∧
      (∀ v c, .pin .cs v c ∉ inner) ∧ (a ≠ .ok → inner = [])

/-- 41_sequencer.md R92 (a), (c), (e): inside every transmission each bus write is made with DC, if
present, at the transmission's level and with CS, if present, low; a transmission never drives RST or BL
and never delays. -/
def Obligations.BusWritesAreMadeInsideTheirBracket : Prop :=
  ∀ (kind : Kind) (src : Source) (s : State),
    ∃ es, (xmit kind src s).st.trace = s.trace ++ es ∧
      (∀ pre bs b post, es = pre ++ .bus bs b :: post →
        (s.has.dc = true → (latchesAfter s.lvl pre).dc = kind.dcLevel.level) ∧
        (s.has.cs = true → (latchesAfter s.lvl pre).cs = .low)) ∧
      (∀ v a, .pin .rst v a ∉ es ∧ .pin .bl v a ∉ es) ∧ (∀ n, .delay n ∉ es)

/-- 20_memory.md R37 with 40_encoder.md R78, R81: on the wire a successful XMIT_DATA is `Bytes(fmt, p)`,
each byte tagged Data (NoDC where the line is absent); so an iterator format and the slice format of
the same elements look alike. -/
def Obligations.DataOnTheWireIsTheBytesOfItsFormat : Prop :=
  ∀ (s : State) (src : Source), s.released = false → AnswersOk s →
    ∃ t es, exec (.xmitData src) s = .next t ∧ t.trace = s.trace ++ es ∧
      wireFrom s.has.dc s.lvl es =
        (sourceBytes s.params.nativeOrder src).map
          (WireItem.byte (if s.has.dc then .data else .noDc))

/-- 20_memory.md R37 for a command: on the wire an XMIT_CMD that responds Ok is its one byte, tagged Cmd
(NoDC where the line is absent), and one that failed at chip-select or at the data/command line is nothing.
That a failed write is a marker is the model's choice (entry 21). -/
def Obligations.CommandOnTheWireIsItsByteTaggedCmd : Prop :=
  ∀ (s : State) (c : U8), s.released = false →
    (AnswersOk s → ∃ t, exec (.xmitCmd c) s = .next t ∧ t.lastResponse = some .ok) ∧
    ∀ t es, exec (.xmitCmd c) s = .next t → t.trace = s.trace ++ es →
      (t.lastResponse = some .ok →
        wireFrom s.has.dc s.lvl es = [.byte (if s.has.dc then .cmd else .noDc) c]) ∧
      (t.lastResponse = some (.err .csFailed) ∨ t.lastResponse = some (.err .dcFailed) →
        wireFrom s.has.dc s.lvl es = []) ∧
      (t.lastResponse = some (.err .busWriteFailed) → wireFrom s.has.dc s.lvl es = [.failedWrite])

/-- 20_memory.md R37, 41_sequencer.md R92: no byte on the wire is tagged Undef, in any state whose trace is
coherent (an invariant of every step, `StepKeepsTraceCoherent`). -/
def Obligations.NoByteOnTheWireIsUndefined : Prop :=
  ∀ s : State, TraceCoherent s → ∀ b, WireItem.byte .undef b ∉ s.wireView

/-! ## Orientation and window -/

/-- 43_addressing.md R122: a successful SET_ORIENTATION sends the access-control command and byte, and
records the orientation and its offsets. -/
def Obligations.SetOrientationRecordsAndSends : Prop :=
  ∀ (s : State) (o : Orientation), s.released = false → AnswersOk s →
    ∃ env, exec (.setOrientation o) s =
      .next { afterCalls s
                (commandTrace s .madctl ++ dataTrace s (.u8 [s.params.madctlByte.get o]))
                (latchesAfterXmit s.has .data s.lvl) .ok env with
              orientation := o
              xStart := (offsets s.params.offsetAxis o s.sizeY).1
              yStart := (offsets s.params.offsetAxis o s.sizeY).2 }

/-- R122: the three registers are written together where the response is Ok, and not at all where it is
an error. -/
def Obligations.SetOrientationWritesRegistersOnlyOnSuccess : Prop :=
  ∀ (s t : State) (o : Orientation), exec (.setOrientation o) s = .next t →
    (t.lastResponse = some .ok → t.orientation = o ∧
      (t.xStart, t.yStart) = offsets s.params.offsetAxis o s.sizeY) ∧
    (t.lastResponse ≠ some .ok → t.orientation = s.orientation ∧ t.xStart = s.xStart ∧
      t.yStart = s.yStart)

/-- 43_addressing.md R121, R124: the unrotated and one rotated mode have zero offsets; the other two
shift by `320 - size_y`, each on the axis the parameter OFFSET_AXIS gives it; the default table for 240.
That OFFSET_AXIS has two values is read from the rule (entry 31). -/
def Obligations.OrientationOffsetTable : Prop :=
  (∀ (axis : OffsetAxis) (sizeY : U16), sizeY.toNat ≤ 320 →
    offsets axis .o0 sizeY = (0, 0) ∧ offsets axis .o1 sizeY = (0, 0) ∧
    ∃ g : U16, g.toNat = 320 - sizeY.toNat ∧
      (axis = .o2ShiftsY_o3ShiftsX →
        offsets axis .o2 sizeY = (0, g) ∧ offsets axis .o3 sizeY = (g, 0)) ∧
      (axis = .o2ShiftsX_o3ShiftsY →
        offsets axis .o2 sizeY = (g, 0) ∧ offsets axis .o3 sizeY = (0, g))) ∧
  offsets .o2ShiftsY_o3ShiftsX .o2 240 = (0, 80) ∧
  offsets .o2ShiftsY_o3ShiftsX .o3 240 = (80, 0)

/-- 43_addressing.md R123: a window whose sums fit goes out as six transmissions, columns first, start
before end, each coordinate shifted by the offset of its axis. -/
def Obligations.SetAddressWindowSendsShiftedCoordinates : Prop :=
  ∀ (s : State) (sx sy ex ey : U16), s.released = false → AnswersOk s →
    ¬ WindowOverflows s sx sy ex ey →
    ∃ env, exec (.setAddressWindow sx sy ex ey) s =
      .next (afterCalls s (windowTrace s sx sy ex ey) (latchesAfterXmit s.has .data s.lvl) .ok env)

/-- R123, R132, R133, R166: a coordinate sum that does not fit 16 bits is refused by name. -/
def Obligations.CoordinateOverflowIsRefused : Prop :=
  ∀ (s : State) (sx sy ex ey color : U16) (colors : List U16), s.released = false →
    (WindowOverflows s sx sy ex ey →
      exec (.setAddressWindow sx sy ex ey) s = .refused .coordinateOverflow ∧
      exec (.setPixels sx sy ex ey colors) s = .refused .coordinateOverflow) ∧
    (WindowOverflows s sx sy sx sy →
      exec (.setPixel sx sy color) s = .refused .coordinateOverflow)

/-! ## Pixel requests -/

/-- 44_pixel_api.md R132: window, memory write, the colour high byte first. -/
def Obligations.SetPixelSendsWindowAndColour : Prop :=
  ∀ (s : State) (x y color : U16), s.released = false → AnswersOk s →
    ¬ WindowOverflows s x y x y →
    ∃ env, exec (.setPixel x y color) s =
      .next (afterCalls s (windowTrace s x y x y ++ commandTrace s .ramwr ++ wordTrace s color)
        (latchesAfterXmit s.has .data s.lvl) .ok env)

/-- 44_pixel_api.md R133 with 40_encoder.md R76: window, memory write, one data bracket around the
colours in runs of 32, all of them consumed, their number not compared with the window. That the used
staging buffer reads empty is the model's choice (entry 10). -/
def Obligations.SetPixelsStreamsItsColours : Prop :=
  ∀ (s : State) (sx sy ex ey : U16) (colors : List U16), s.released = false → AnswersOk s →
    ¬ WindowOverflows s sx sy ex ey →
    ∃ env, exec (.setPixels sx sy ex ey colors) s =
      .next { afterCalls s
                (windowTrace s sx sy ex ey ++ commandTrace s .ramwr ++
                  dataTrace s (.u16beIter colors))
                (latchesAfterXmit s.has .data s.lvl) .ok env with
              payload := .halves colors
              consumed := colors.length
              returned := s.returned ++ [{ buffer := .halves colors, consumed := colors.length }]
              buf16 := [] }

/-- 44_pixel_api.md R134, R139: with the right length and positive extents that fit, one window, one
memory write and one data write of the whole buffer. -/
def Obligations.BlitPixelsSendsItsBufferInOneWrite : Prop :=
  ∀ (s : State) (sx sy dx dy : U16) (data : List U8), s.released = false → AnswersOk s →
    data.length = dx.toNat * dy.toNat * 2 → ¬ BlitRefused s sx sy dx dy data →
    ∃ env, exec (.blitPixels sx sy dx dy data) s =
      .next { afterCalls s
                (windowTrace s sx sy (sx + dx - 1) (sy + dy - 1) ++ commandTrace s .ramwr ++
                  dataTrace s (.u8 data))
                (latchesAfterXmit s.has .data s.lvl) .ok env with
              payload := .bytes data
              consumed := 0
              returned := s.returned ++ [{ buffer := .bytes data, consumed := 0 }] }

/-- 44_pixel_api.md R134, R139, 30_encoding.md R57: a wrong length answers E_BLIT_LEN before any event,
whatever the window, the product never truncated. -/
def Obligations.BlitLengthMismatchMakesNoCall : Prop :=
  ∀ (s : State) (sx sy dx dy : U16) (data : List U8), s.released = false →
    data.length ≠ dx.toNat * dy.toNat * 2 →
    exec (.blitPixels sx sy dx dy data) s =
      .next { s with
              payload := .bytes data
              consumed := 0
              returned := s.returned ++ [{ buffer := .bytes data, consumed := 0 }]
              responses := s.responses ++ [.err s.params.eBlitLen] }

/-- 44_pixel_api.md R134, R166: with the right length, a zero extent and an end beyond 16 bits are
refused by name. The names and the order of the tests are the model's choice (entry 25). -/
def Obligations.BlitWithoutAWindowIsRefused : Prop :=
  ∀ (s : State) (sx sy dx dy : U16) (data : List U8), s.released = false →
    data.length = dx.toNat * dy.toNat * 2 →
    ((dx = 0 ∨ dy = 0) → exec (.blitPixels sx sy dx dy data) s = .refused .blitZeroExtent) ∧
    (dx ≠ 0 → dy ≠ 0 →
      (65536 ≤ sx.toNat + dx.toNat - 1 ∨ 65536 ≤ sy.toNat + dy.toNat - 1) →
      exec (.blitPixels sx sy dx dy data) s = .refused .blitEndOverflow)

/-! ## Single-command requests, backlight, release -/

/-- 44_pixel_api.md R135: the scroll command and the offset high byte first, no window offset added. -/
def Obligations.SetScrollOffsetSendsCommandAndOffset : Prop :=
  ∀ (s : State) (offset : U16), s.released = false → AnswersOk s →
    ∃ env, exec (.setScrollOffset offset) s =
      .next (afterCalls s (commandTrace s .vscad ++ wordTrace s offset)
        (latchesAfterXmit s.has .data s.lvl) .ok env)

/-- 44_pixel_api.md R136: Off is one command; the other two modes a command and a flag byte; mode 3 is
refused. -/
def Obligations.SetTearingEffectByMode : Prop :=
  ∀ s : State, s.released = false →
    (AnswersOk s →
      (∃ env, exec (.setTearingEffect .off) s =
        .next (afterCalls s (commandTrace s .teoff) (latchesAfterXmit s.has .cmd s.lvl) .ok env)) ∧
      (∃ env, exec (.setTearingEffect .vertical) s =
        .next (afterCalls s (commandTrace s .teon ++ dataTrace s (.u8 [0x00]))
          (latchesAfterXmit s.has .data s.lvl) .ok env)) ∧
      (∃ env, exec (.setTearingEffect .horizontalAndVertical) s =
        .next (afterCalls s (commandTrace s .teon ++ dataTrace s (.u8 [0x01]))
          (latchesAfterXmit s.has .data s.lvl) .ok env))) ∧
    exec (.setTearingEffect .reserved) s = .refused .reservedTearingMode

/-- 44_pixel_api.md R137: BL is driven high for On, low for Off, and the settle delay taken; a failed
drive answers `Pin(e)`, leaves the latch Unknown and takes no delay; without BL nothing happens. -/
def Obligations.SetBacklightDrivesTheLine : Prop :=
  ∀ (s : State) (b : BacklightState) (v : Drive), s.released = false →
    ((b = .on ∧ v = .high) ∨ (b = .off ∧ v = .low)) →
    (s.has.bl = true → s.env.answer 0 = .ok →
      exec (.setBacklight b) s =
        .next (afterCalls s [.pin .bl v .ok, .delay s.params.tBlUs] { s.lvl with bl := v.level }
          .ok s.env.next)) ∧
    (∀ e, s.has.bl = true → s.env.answer 0 = .fail e →
      exec (.setBacklight b) s =
        .next (afterCalls s [.pin .bl v (.fail e)] { s.lvl with bl := .unknown }
          (.err (.pin e)) s.env.next)) ∧
    (s.has.bl = false →
      exec (.setBacklight b) s = .next (afterCalls s [] s.lvl .ok s.env))

/-- 44_pixel_api.md R138: RELEASE makes no call, cannot fail and writes the flag alone. -/
def Obligations.ReleaseSetsTheFlagAndMakesNoCall : Prop :=
  ∀ s : State, s.released = false →
    exec .release s = .next { s with released := true, responses := s.responses ++ [.ok] }

/-! ## Initialization -/

/-- 42_init.md R100 to R104, R108: a successful INIT is the concatenation of its four transitions and
ends in phase DisplayOn; orientation and offsets are untouched (R106). -/
def Obligations.InitRunsItsFourTransitions : Prop :=
  ∀ s : State, s.released = false → AnswersOk s →
    ∃ env, exec .init s =
      .next { afterCalls s (initTrace s) (latchesAfterInit s.has s.lvl) .ok env with
              phase := .displayOn }

/-- 42_init.md R105: after INIT the phase is DisplayOn where it answered Ok and Unpowered where it
answered an error, whatever it had been. -/
def Obligations.InitPhaseFollowsItsResponse : Prop :=
  ∀ s t : State, exec .init s = .next t →
    (t.lastResponse = some .ok → t.phase = .displayOn) ∧
    (t.lastResponse ≠ some .ok → t.phase = .unpowered)

/-- 42_init.md R108: the number of events of a successful INIT, for every presence of the lines. -/
def Obligations.InitEventCount : Prop :=
  ∀ (s t : State), AnswersOk s → exec .init s = .next t →
    t.trace.length = s.trace.length +
      (6 * s.has.rst.toNat + 3 * s.has.bl.toNat +
        (s.params.regProgram.length +
            (s.params.regProgram.filter (fun r => decide (r.data ≠ []))).length + 3) *
          (1 + 2 * s.has.cs.toNat + s.has.dc.toNat) +
        s.params.regProgram.length + 3)

/-- 42_init.md R108, 44_pixel_api.md R139, for all sixteen presences of the lines: with an environment
that always answers `ok`, every request that is not refused responds Ok, but for the two the spec says
answer an error by themselves. -/
def Obligations.OptionalLinesAreTolerated : Prop :=
  ∀ (i : Instr) (s : State), AnswersOk s → ¬ RefusedByRule s i →
    (∀ p, i ≠ .xmitData (.unsupported p)) →
    (∀ sx sy dx dy data, i = .blitPixels sx sy dx dy data →
      data.length = dx.toNat * dy.toNat * 2) →
    ∃ t, exec i s = .next t ∧ t.responses = s.responses ++ [.ok]

/-! ## Errors -/

/-- 60_exceptions.md R155, R156, R157 (a), R152, 41_sequencer.md R90: the first reported failure ends the
request and its kind is the response; after it comes the chip-select deassertion where R156 (a) says so
(after a failed assertion: where CS_RELEASE_ON_ASSERT_FAIL says so, decision D12, entry 22), and nothing
else; its failure changes no response; a request with no reported failure answers Ok, but for the
unsupported format (40_encoder.md R80) and the blit length test (44_pixel_api.md R134). -/
def Obligations.FirstFailureDecidesTheResponse : Prop :=
  ∀ (i : Instr) (s t : State), exec i s = .next t →
    ∃ es r, t.trace = s.trace ++ es ∧ t.responses = s.responses ++ [r] ∧
      ((∃ pre f post k, es = pre ++ f :: post ∧ (∀ e ∈ pre, e.isReportedFailure = false) ∧
          f.isReportedFailure = true ∧ f.errKind = some k ∧ r = .err k ∧
          (deassertionFollows s f = true → ∃ a, post = [.pin .cs .high a]) ∧
          (deassertionFollows s f = false → post = [])) ∨
        ((∀ e ∈ es, e.isReportedFailure = false) ∧
          (r = .ok ∨
            (r = .err .formatNotImplemented ∧ ∃ p, i = .xmitData (.unsupported p)) ∨
            (r = .err s.params.eBlitLen ∧ es = [] ∧ ∃ sx sy dx dy data,
              i = .blitPixels sx sy dx dy data ∧ data.length ≠ dx.toNat * dy.toNat * 2))))

/-- 60_exceptions.md R152: a request answers only the error kinds the table allows it. The table has no row
for a command row; that each may raise what XMIT_CMD may is the model's choice (entry 1). -/
def Obligations.ErrorKindsByRequest : Prop :=
  ∀ (i : Instr) (s t : State) (k : Err), exec i s = .next t →
    t.responses = s.responses ++ [.err k] → mayRaise s i k

/-- 60_exceptions.md R162, 20_memory.md R36, R44, 10_state.md R17: a request appends its calls to the
trace, each with the answer the environment gave it, in order; the latches are what those calls left;
and it responds exactly once (R150). -/
def Obligations.TraceRecordsTheEnvironmentsAnswers : Prop :=
  ∀ (i : Instr) (s t : State), exec i s = .next t →
    ∃ es r, t.trace = s.trace ++ es ∧ answeredBy s.env es t.env ∧
      t.lvl = latchesAfter s.lvl es ∧ t.responses = s.responses ++ [r]

/-! ## Frames and whole-machine rules -/

/-- The requests that only transmit and take no payload (10_state.md R23): SET_ADDRESS_WINDOW,
SET_PIXEL, SET_SCROLL_OFFSET, SET_TEARING_EFFECT, XMIT_CMD and the thirty-two command rows. Nothing
changes but the trace, the response record, the environment, and the latches of DC and CS. R23 has no
row for a command row: that each is an instruction, with the effects of XMIT_CMD, is the model's choice
(entry 1). -/
def Obligations.TransmittingRequestsFrame : Prop :=
  ∀ (i : Instr) (s t : State),
    ((∃ sx sy ex ey, i = .setAddressWindow sx sy ex ey) ∨ (∃ x y c, i = .setPixel x y c) ∨
      (∃ v, i = .setScrollOffset v) ∨ (∃ m, i = .setTearingEffect m) ∨ (∃ c, i = .xmitCmd c) ∨
      (∃ c, i.command? = some c)) →
    exec i s = .next t →
    t = { s with trace := t.trace, responses := t.responses, env := t.env, lvl := t.lvl } ∧
    t.lvl.rst = s.lvl.rst ∧ t.lvl.bl = s.lvl.bl

/-- The requests with a payload (10_state.md R23): besides what a transmission changes, the lent
buffer, its count of consumed elements, the record of buffers given back, and the staging buffer of the
iterator format used. SET_PIXELS and BLIT_PIXELS leave the buffer as lent, XMIT_DATA leaves it as lent or
as its in-place format converts it. A slice format consumes nothing; an iterator has been consumed as far
as its elements were put into bus writes, also where one failed (40_encoder.md R79; entry 26). That a
used staging buffer reads empty, in every environment and so also after a failed flush, is the model's
choice (entry 10). -/
def Obligations.PayloadRequestsFrame : Prop :=
  ∀ (i : Instr) (s t : State), IsDataRequest i → exec i s = .next t →
    t = { s with trace := t.trace, responses := t.responses, env := t.env, lvl := t.lvl,
                 payload := t.payload, consumed := t.consumed, returned := t.returned,
                 buf8 := t.buf8, buf16 := t.buf16 } ∧
    t.lvl.rst = s.lvl.rst ∧ t.lvl.bl = s.lvl.bl ∧
    (t.buf8 = s.buf8 ∨ t.buf8 = [] ∧ ∃ p, i = .xmitData (.u8Iter p)) ∧
    (t.buf16 = s.buf16 ∨ t.buf16 = [] ∧
      ((∃ p, i = .xmitData (.u16beIter p) ∨ i = .xmitData (.u16leIter p)) ∨
        ∃ sx sy ex ey cs, i = .setPixels sx sy ex ey cs)) ∧
    (∀ sx sy ex ey cs, i = .setPixels sx sy ex ey cs →
      t.payload = .halves cs ∧ t.consumed ≤ cs.length) ∧
    (∀ sx sy dx dy d, i = .blitPixels sx sy dx dy d → t.payload = .bytes d ∧ t.consumed = 0) ∧
    (∀ src, i = .xmitData src →
      (t.payload = src.payload ∨ t.payload = payloadAfter s.params.nativeOrder src) ∧
      t.consumed ≤ consumedAfter src) ∧
    (∀ es p, i = .xmitData (.u8Iter p) → t.trace = s.trace ++ es →
      t.consumed = (es.map Event.busBytes).flatten.length) ∧
    (∀ es p, i = .xmitData (.u16beIter p) ∨ i = .xmitData (.u16leIter p) → t.trace = s.trace ++ es →
      2 * t.consumed = (es.map Event.busBytes).flatten.length)

/-- 20_memory.md R32, 70_reset_and_hazards.md R200: a data request gives the host its buffer back as it
left it, also where it responds with an error; what was given back before stays, and no other request
gives back, lends or converts anything. That the count of consumed elements is kept beside the buffer is
the model's form (entry 11). -/
def Obligations.DataRequestsGiveTheirBufferBack : Prop :=
  ∀ (i : Instr) (s t : State), exec i s = .next t →
    (IsDataRequest i →
      t.returned = s.returned ++ [{ buffer := t.payload, consumed := t.consumed }]) ∧
    (¬ IsDataRequest i →
      t.returned = s.returned ∧ t.payload = s.payload ∧ t.consumed = s.consumed)

/-- SET_ORIENTATION, INIT and SET_BACKLIGHT (10_state.md R23): what each leaves unchanged. INIT writes
phase and latches (42_init.md R106: not the orientation), SET_ORIENTATION its three registers and the
latches of DC and CS, SET_BACKLIGHT the latch of BL. -/
def Obligations.RegisterWritingRequestsFrame : Prop :=
  ∀ (s t : State),
    (∀ o, exec (.setOrientation o) s = .next t →
      t = { s with trace := t.trace, responses := t.responses, env := t.env, lvl := t.lvl,
                   orientation := t.orientation, xStart := t.xStart, yStart := t.yStart } ∧
      t.lvl.rst = s.lvl.rst ∧ t.lvl.bl = s.lvl.bl) ∧
    (exec .init s = .next t →
      t = { s with trace := t.trace, responses := t.responses, env := t.env, lvl := t.lvl,
                   phase := t.phase }) ∧
    (∀ b, exec (.setBacklight b) s = .next t →
      t = { s with trace := t.trace, responses := t.responses, env := t.env,
                   lvl := { s.lvl with bl := t.lvl.bl } })

/-- 10_state.md R10, R11, R16, R21: no step changes the sizes, the straps or the parameters. -/
def Obligations.StepKeepsConfiguration : Prop :=
  ∀ s t : State, step s = .next t →
    t.sizeX = s.sizeX ∧ t.sizeY = s.sizeY ∧ t.has = s.has ∧ t.params = s.params

/-- 10_state.md R12, R13, R14: the phase is written only by INIT, the orientation and the offsets only
by SET_ORIENTATION. -/
def Obligations.RegistersHaveOneWriter : Prop :=
  ∀ (i : Instr) (s t : State), exec i s = .next t →
    (t.phase ≠ s.phase → i = .init) ∧
    (t.orientation ≠ s.orientation ∨ t.xStart ≠ s.xStart ∨ t.yStart ≠ s.yStart →
      ∃ o, i = .setOrientation o)

/-- 20_memory.md R45, 60_exceptions.md R170, R171: a delay is taken only by INIT and SET_BACKLIGHT, RST
is driven only by INIT, BL only by INIT and SET_BACKLIGHT. -/
def Obligations.DelaysAndPowerLinesBelongToInitAndBacklight : Prop :=
  ∀ (i : Instr) (s t : State) (es : List Event), exec i s = .next t → t.trace = s.trace ++ es →
    (∀ v a, .pin .rst v a ∈ es → i = .init) ∧
    (∀ v a, .pin .bl v a ∈ es → i = .init ∨ ∃ b, i = .setBacklight b) ∧
    (∀ n, .delay n ∈ es → i = .init ∨ ∃ b, i = .setBacklight b)

/-- 60_exceptions.md R160, 10_state.md R14, R17: nothing of an earlier request but the registers it wrote
decides a later one. Two instances that differ only in their past (trace, responses, latches, phase,
staging buffers, lent payload, buffers given back, requests to come) make the same calls and give the
same response. -/
def Obligations.ThePastDecidesNothing : Prop :=
  ∀ (i : Instr) (s t : State) (trace : List Event) (responses : List Response) (lvl : Latches)
    (phase : Phase) (buf8 : List U8) (buf16 : List U16) (payload : Payload) (consumed : Nat)
    (returned : List Returned) (requests : List Request),
    exec i s = .next t →
    ∃ es r u, t.trace = s.trace ++ es ∧ t.responses = s.responses ++ [r] ∧
      exec i { s with
               trace := trace, responses := responses, lvl := lvl, phase := phase, buf8 := buf8,
               buf16 := buf16, payload := payload, consumed := consumed, returned := returned,
               requests := requests } = .next u ∧
      u.trace = trace ++ es ∧ u.responses = responses ++ [r] ∧ u.env = t.env

/-- 30_encoding.md R62: an instruction and the sequence of its parts, issued one by one up to the first
error, leave the same trace, latches, registers and environment and the same last response; they differ
only in the response record, the lent buffer and the buffers given back. -/
def Obligations.CompositeEqualsItsExpansion : Prop :=
  ∀ (i : Instr) (s : State), ¬ RefusedByRule s i →
    (∀ sx sy dx dy data, i = .blitPixels sx sy dx dy data →
      data.length = dx.toNat * dy.toNat * 2) →
    ∃ t u, exec i s = .next t ∧ issueAll (expand s i) s = .next u ∧
      t.lastResponse = u.lastResponse ∧
      u = { t with responses := u.responses, payload := u.payload, consumed := u.consumed,
                   returned := u.returned }

/-! ## Invariants -/

/-- 10_state.md R13: the offsets are those of the orientation between any two requests, and only
SET_ORIENTATION writes them, in the step that writes the orientation. -/
def Obligations.OffsetsAreNeverStale : Prop :=
  (∀ straps sx sy params env s, construct straps sx sy params env = .next s →
    (s.xStart, s.yStart) = offsets s.params.offsetAxis s.orientation s.sizeY) ∧
  (∀ s t : State, (s.xStart, s.yStart) = offsets s.params.offsetAxis s.orientation s.sizeY →
    step s = .next t →
    (t.xStart, t.yStart) = offsets t.params.offsetAxis t.orientation t.sizeY) ∧
  (∀ (i : Instr) (s t : State), exec i s = .next t → t.xStart ≠ s.xStart ∨ t.yStart ≠ s.yStart →
    ∃ o, i = .setOrientation o ∧ t.orientation = o)

/-- 10_state.md R13 and what else is coherent between requests: every step keeps it. That a staging
buffer reads empty between requests is the model's choice (entry 10). -/
def Obligations.StepKeepsRegistersCoherent : Prop :=
  ∀ s t : State, RegistersCoherent s → step s = .next t → RegistersCoherent t

/-- 00_scope.md R8, 10_state.md R17, 41_sequencer.md R92: the latches are what the trace says, absent
lines are never driven, and every bus write is made with CS low and DC driven; every step keeps it. -/
def Obligations.StepKeepsTraceCoherent : Prop :=
  ∀ s t : State, TraceCoherent s → step s = .next t → TraceCoherent t

/-- Both invariants hold after every construction the spec allows, and at State.reset, whose straps,
sizes and parameters are the model's choice (entries 7 and 8). -/
def Obligations.ConstructionIsCoherent : Prop :=
  (∀ straps sx sy params env s, construct straps sx sy params env = .next s →
    RegistersCoherent s ∧ TraceCoherent s) ∧
  RegistersCoherent State.reset ∧ TraceCoherent State.reset

/-- 70_reset_and_hazards.md R180, 10_state.md R22: what construction leaves, and its refusal. -/
def Obligations.ConstructionLeavesTheResetValues : Prop :=
  ∀ (straps : Straps) (sx sy : U16) (params : Params) (env : Env),
    (320 < sy.toNat → construct straps sx sy params env = .refused .sizeYTooLarge) ∧
    (sy.toNat ≤ 320 → ∃ s, construct straps sx sy params env = .next s ∧
      s.has = straps ∧ s.sizeX = sx ∧ s.sizeY = sy ∧ s.orientation = .o0 ∧ s.xStart = 0 ∧
      s.yStart = 0 ∧ s.phase = .unpowered ∧ s.released = false ∧
      (∀ l, s.lvl.get l = .unknown) ∧ s.n8 = 0 ∧ s.n16 = 0 ∧ s.trace = [] ∧ s.responses = [] ∧
      s.returned = [])

/-- 10_state.md R12, R14, R16, R17, 30_encoding.md R63: the packed registers HAS and LVL, the two-bit codes
of a latch, of the phase and of the orientation, and the response byte. -/
def Obligations.PackedRegistersAndResponseByte : Prop :=
  (∀ s : State,
    s.hasReg.getLsbD 0 = s.has.rst ∧ s.hasReg.getLsbD 1 = s.has.bl ∧
    s.hasReg.getLsbD 2 = s.has.dc ∧ s.hasReg.getLsbD 3 = s.has.cs ∧
    s.lvlReg.extractLsb' 0 2 = s.lvl.rst.code ∧ s.lvlReg.extractLsb' 2 2 = s.lvl.bl.code ∧
    s.lvlReg.extractLsb' 4 2 = s.lvl.dc.code ∧ s.lvlReg.extractLsb' 6 2 = s.lvl.cs.code ∧
    (∀ l, (s.lvl.get l).code ≠ 3)) ∧
  Level.unknown.code = 0b00 ∧ Level.low.code = 0b01 ∧ Level.high.code = 0b10 ∧
  Phase.unpowered.code = 0b00 ∧ Phase.reset.code = 0b01 ∧ Phase.registerProgrammed.code = 0b10 ∧
  Phase.displayOn.code = 0b11 ∧
  Orientation.o0.code = 0b00 ∧ Orientation.o1.code = 0b01 ∧ Orientation.o2.code = 0b10 ∧
  Orientation.o3.code = 0b11 ∧
  Response.ok.code = 0 ∧ (∀ e, (Response.err (.pin e)).code = 1) ∧
  (Response.err .busWriteFailed).code = 2 ∧ (Response.err .dcFailed).code = 3 ∧
  (Response.err .csFailed).code = 4 ∧ (Response.err .formatNotImplemented).code = 5
end

