-- ==== Sys2Proof/Laws/State.lean ====
section
/-! SUPPORT. One lemma per field per update of the state (Machine/Ops.lean), true by rfl, so that no
proof unfolds a record update. -/

namespace Sys2Proof.Machine

/-! ## setPhase -/

@[simp] theorem State.setPhase_sizeX (s : State) (p : Phase) :
    (s.setPhase p).sizeX = s.sizeX := rfl

@[simp] theorem State.setPhase_sizeY (s : State) (p : Phase) :
    (s.setPhase p).sizeY = s.sizeY := rfl

@[simp] theorem State.setPhase_orientation (s : State) (p : Phase) :
    (s.setPhase p).orientation = s.orientation := rfl

@[simp] theorem State.setPhase_xStart (s : State) (p : Phase) :
    (s.setPhase p).xStart = s.xStart := rfl

@[simp] theorem State.setPhase_yStart (s : State) (p : Phase) :
    (s.setPhase p).yStart = s.yStart := rfl

@[simp] theorem State.setPhase_phase (s : State) (p : Phase) :
    (s.setPhase p).phase = p := rfl

@[simp] theorem State.setPhase_released (s : State) (p : Phase) :
    (s.setPhase p).released = s.released := rfl

@[simp] theorem State.setPhase_has (s : State) (p : Phase) :
    (s.setPhase p).has = s.has := rfl

@[simp] theorem State.setPhase_lvl (s : State) (p : Phase) :
    (s.setPhase p).lvl = s.lvl := rfl

@[simp] theorem State.setPhase_buf8 (s : State) (p : Phase) :
    (s.setPhase p).buf8 = s.buf8 := rfl

@[simp] theorem State.setPhase_buf16 (s : State) (p : Phase) :
    (s.setPhase p).buf16 = s.buf16 := rfl

@[simp] theorem State.setPhase_payload (s : State) (p : Phase) :
    (s.setPhase p).payload = s.payload := rfl

@[simp] theorem State.setPhase_consumed (s : State) (p : Phase) :
    (s.setPhase p).consumed = s.consumed := rfl

@[simp] theorem State.setPhase_trace (s : State) (p : Phase) :
    (s.setPhase p).trace = s.trace := rfl

@[simp] theorem State.setPhase_responses (s : State) (p : Phase) :
    (s.setPhase p).responses = s.responses := rfl

@[simp] theorem State.setPhase_returned (s : State) (p : Phase) :
    (s.setPhase p).returned = s.returned := rfl

@[simp] theorem State.setPhase_requests (s : State) (p : Phase) :
    (s.setPhase p).requests = s.requests := rfl

@[simp] theorem State.setPhase_env (s : State) (p : Phase) :
    (s.setPhase p).env = s.env := rfl

@[simp] theorem State.setPhase_params (s : State) (p : Phase) :
    (s.setPhase p).params = s.params := rfl

/-! ## setReleased -/

@[simp] theorem State.setReleased_sizeX (s : State) (b : Bool) :
    (s.setReleased b).sizeX = s.sizeX := rfl

@[simp] theorem State.setReleased_sizeY (s : State) (b : Bool) :
    (s.setReleased b).sizeY = s.sizeY := rfl

@[simp] theorem State.setReleased_orientation (s : State) (b : Bool) :
    (s.setReleased b).orientation = s.orientation := rfl

@[simp] theorem State.setReleased_xStart (s : State) (b : Bool) :
    (s.setReleased b).xStart = s.xStart := rfl

@[simp] theorem State.setReleased_yStart (s : State) (b : Bool) :
    (s.setReleased b).yStart = s.yStart := rfl

@[simp] theorem State.setReleased_phase (s : State) (b : Bool) :
    (s.setReleased b).phase = s.phase := rfl

@[simp] theorem State.setReleased_released (s : State) (b : Bool) :
    (s.setReleased b).released = b := rfl

@[simp] theorem State.setReleased_has (s : State) (b : Bool) :
    (s.setReleased b).has = s.has := rfl

@[simp] theorem State.setReleased_lvl (s : State) (b : Bool) :
    (s.setReleased b).lvl = s.lvl := rfl

@[simp] theorem State.setReleased_buf8 (s : State) (b : Bool) :
    (s.setReleased b).buf8 = s.buf8 := rfl

@[simp] theorem State.setReleased_buf16 (s : State) (b : Bool) :
    (s.setReleased b).buf16 = s.buf16 := rfl

@[simp] theorem State.setReleased_payload (s : State) (b : Bool) :
    (s.setReleased b).payload = s.payload := rfl

@[simp] theorem State.setReleased_consumed (s : State) (b : Bool) :
    (s.setReleased b).consumed = s.consumed := rfl

@[simp] theorem State.setReleased_trace (s : State) (b : Bool) :
    (s.setReleased b).trace = s.trace := rfl

@[simp] theorem State.setReleased_responses (s : State) (b : Bool) :
    (s.setReleased b).responses = s.responses := rfl

@[simp] theorem State.setReleased_returned (s : State) (b : Bool) :
    (s.setReleased b).returned = s.returned := rfl

@[simp] theorem State.setReleased_requests (s : State) (b : Bool) :
    (s.setReleased b).requests = s.requests := rfl

@[simp] theorem State.setReleased_env (s : State) (b : Bool) :
    (s.setReleased b).env = s.env := rfl

@[simp] theorem State.setReleased_params (s : State) (b : Bool) :
    (s.setReleased b).params = s.params := rfl

/-! ## setAddressing -/

@[simp] theorem State.setAddressing_sizeX (s : State) (o : Orientation) (off : U16 × U16) :
    (s.setAddressing o off).sizeX = s.sizeX := rfl

@[simp] theorem State.setAddressing_sizeY (s : State) (o : Orientation) (off : U16 × U16) :
    (s.setAddressing o off).sizeY = s.sizeY := rfl

@[simp] theorem State.setAddressing_orientation (s : State) (o : Orientation) (off : U16 × U16) :
    (s.setAddressing o off).orientation = o := rfl

@[simp] theorem State.setAddressing_xStart (s : State) (o : Orientation) (off : U16 × U16) :
    (s.setAddressing o off).xStart = off.1 := rfl

@[simp] theorem State.setAddressing_yStart (s : State) (o : Orientation) (off : U16 × U16) :
    (s.setAddressing o off).yStart = off.2 := rfl

@[simp] theorem State.setAddressing_phase (s : State) (o : Orientation) (off : U16 × U16) :
    (s.setAddressing o off).phase = s.phase := rfl

@[simp] theorem State.setAddressing_released (s : State) (o : Orientation) (off : U16 × U16) :
    (s.setAddressing o off).released = s.released := rfl

@[simp] theorem State.setAddressing_has (s : State) (o : Orientation) (off : U16 × U16) :
    (s.setAddressing o off).has = s.has := rfl

@[simp] theorem State.setAddressing_lvl (s : State) (o : Orientation) (off : U16 × U16) :
    (s.setAddressing o off).lvl = s.lvl := rfl

@[simp] theorem State.setAddressing_buf8 (s : State) (o : Orientation) (off : U16 × U16) :
    (s.setAddressing o off).buf8 = s.buf8 := rfl

@[simp] theorem State.setAddressing_buf16 (s : State) (o : Orientation) (off : U16 × U16) :
    (s.setAddressing o off).buf16 = s.buf16 := rfl

@[simp] theorem State.setAddressing_payload (s : State) (o : Orientation) (off : U16 × U16) :
    (s.setAddressing o off).payload = s.payload := rfl

@[simp] theorem State.setAddressing_consumed (s : State) (o : Orientation) (off : U16 × U16) :
    (s.setAddressing o off).consumed = s.consumed := rfl

@[simp] theorem State.setAddressing_trace (s : State) (o : Orientation) (off : U16 × U16) :
    (s.setAddressing o off).trace = s.trace := rfl

@[simp] theorem State.setAddressing_responses (s : State) (o : Orientation) (off : U16 × U16) :
    (s.setAddressing o off).responses = s.responses := rfl

@[simp] theorem State.setAddressing_returned (s : State) (o : Orientation) (off : U16 × U16) :
    (s.setAddressing o off).returned = s.returned := rfl

@[simp] theorem State.setAddressing_requests (s : State) (o : Orientation) (off : U16 × U16) :
    (s.setAddressing o off).requests = s.requests := rfl

@[simp] theorem State.setAddressing_env (s : State) (o : Orientation) (off : U16 × U16) :
    (s.setAddressing o off).env = s.env := rfl

@[simp] theorem State.setAddressing_params (s : State) (o : Orientation) (off : U16 × U16) :
    (s.setAddressing o off).params = s.params := rfl

/-! ## setLvl -/

@[simp] theorem State.setLvl_sizeX (s : State) (l : Line) (v : Level) :
    (s.setLvl l v).sizeX = s.sizeX := rfl

@[simp] theorem State.setLvl_sizeY (s : State) (l : Line) (v : Level) :
    (s.setLvl l v).sizeY = s.sizeY := rfl

@[simp] theorem State.setLvl_orientation (s : State) (l : Line) (v : Level) :
    (s.setLvl l v).orientation = s.orientation := rfl

@[simp] theorem State.setLvl_xStart (s : State) (l : Line) (v : Level) :
    (s.setLvl l v).xStart = s.xStart := rfl

@[simp] theorem State.setLvl_yStart (s : State) (l : Line) (v : Level) :
    (s.setLvl l v).yStart = s.yStart := rfl

@[simp] theorem State.setLvl_phase (s : State) (l : Line) (v : Level) :
    (s.setLvl l v).phase = s.phase := rfl

@[simp] theorem State.setLvl_released (s : State) (l : Line) (v : Level) :
    (s.setLvl l v).released = s.released := rfl

@[simp] theorem State.setLvl_has (s : State) (l : Line) (v : Level) :
    (s.setLvl l v).has = s.has := rfl

@[simp] theorem State.setLvl_lvl (s : State) (l : Line) (v : Level) :
    (s.setLvl l v).lvl = s.lvl.set l v := rfl

@[simp] theorem State.setLvl_buf8 (s : State) (l : Line) (v : Level) :
    (s.setLvl l v).buf8 = s.buf8 := rfl

@[simp] theorem State.setLvl_buf16 (s : State) (l : Line) (v : Level) :
    (s.setLvl l v).buf16 = s.buf16 := rfl

@[simp] theorem State.setLvl_payload (s : State) (l : Line) (v : Level) :
    (s.setLvl l v).payload = s.payload := rfl

@[simp] theorem State.setLvl_consumed (s : State) (l : Line) (v : Level) :
    (s.setLvl l v).consumed = s.consumed := rfl

@[simp] theorem State.setLvl_trace (s : State) (l : Line) (v : Level) :
    (s.setLvl l v).trace = s.trace := rfl

@[simp] theorem State.setLvl_responses (s : State) (l : Line) (v : Level) :
    (s.setLvl l v).responses = s.responses := rfl

@[simp] theorem State.setLvl_returned (s : State) (l : Line) (v : Level) :
    (s.setLvl l v).returned = s.returned := rfl

@[simp] theorem State.setLvl_requests (s : State) (l : Line) (v : Level) :
    (s.setLvl l v).requests = s.requests := rfl

@[simp] theorem State.setLvl_env (s : State) (l : Line) (v : Level) :
    (s.setLvl l v).env = s.env := rfl

@[simp] theorem State.setLvl_params (s : State) (l : Line) (v : Level) :
    (s.setLvl l v).params = s.params := rfl

/-! ## setBuf8 -/

@[simp] theorem State.setBuf8_sizeX (s : State) (b : List U8) :
    (s.setBuf8 b).sizeX = s.sizeX := rfl

@[simp] theorem State.setBuf8_sizeY (s : State) (b : List U8) :
    (s.setBuf8 b).sizeY = s.sizeY := rfl

@[simp] theorem State.setBuf8_orientation (s : State) (b : List U8) :
    (s.setBuf8 b).orientation = s.orientation := rfl

@[simp] theorem State.setBuf8_xStart (s : State) (b : List U8) :
    (s.setBuf8 b).xStart = s.xStart := rfl

@[simp] theorem State.setBuf8_yStart (s : State) (b : List U8) :
    (s.setBuf8 b).yStart = s.yStart := rfl

@[simp] theorem State.setBuf8_phase (s : State) (b : List U8) :
    (s.setBuf8 b).phase = s.phase := rfl

@[simp] theorem State.setBuf8_released (s : State) (b : List U8) :
    (s.setBuf8 b).released = s.released := rfl

@[simp] theorem State.setBuf8_has (s : State) (b : List U8) :
    (s.setBuf8 b).has = s.has := rfl

@[simp] theorem State.setBuf8_lvl (s : State) (b : List U8) :
    (s.setBuf8 b).lvl = s.lvl := rfl

@[simp] theorem State.setBuf8_buf8 (s : State) (b : List U8) :
    (s.setBuf8 b).buf8 = b := rfl

@[simp] theorem State.setBuf8_buf16 (s : State) (b : List U8) :
    (s.setBuf8 b).buf16 = s.buf16 := rfl

@[simp] theorem State.setBuf8_payload (s : State) (b : List U8) :
    (s.setBuf8 b).payload = s.payload := rfl

@[simp] theorem State.setBuf8_consumed (s : State) (b : List U8) :
    (s.setBuf8 b).consumed = s.consumed := rfl

@[simp] theorem State.setBuf8_trace (s : State) (b : List U8) :
    (s.setBuf8 b).trace = s.trace := rfl

@[simp] theorem State.setBuf8_responses (s : State) (b : List U8) :
    (s.setBuf8 b).responses = s.responses := rfl

@[simp] theorem State.setBuf8_returned (s : State) (b : List U8) :
    (s.setBuf8 b).returned = s.returned := rfl

@[simp] theorem State.setBuf8_requests (s : State) (b : List U8) :
    (s.setBuf8 b).requests = s.requests := rfl

@[simp] theorem State.setBuf8_env (s : State) (b : List U8) :
    (s.setBuf8 b).env = s.env := rfl

@[simp] theorem State.setBuf8_params (s : State) (b : List U8) :
    (s.setBuf8 b).params = s.params := rfl

/-! ## setBuf16 -/

@[simp] theorem State.setBuf16_sizeX (s : State) (b : List U16) :
    (s.setBuf16 b).sizeX = s.sizeX := rfl

@[simp] theorem State.setBuf16_sizeY (s : State) (b : List U16) :
    (s.setBuf16 b).sizeY = s.sizeY := rfl

@[simp] theorem State.setBuf16_orientation (s : State) (b : List U16) :
    (s.setBuf16 b).orientation = s.orientation := rfl

@[simp] theorem State.setBuf16_xStart (s : State) (b : List U16) :
    (s.setBuf16 b).xStart = s.xStart := rfl

@[simp] theorem State.setBuf16_yStart (s : State) (b : List U16) :
    (s.setBuf16 b).yStart = s.yStart := rfl

@[simp] theorem State.setBuf16_phase (s : State) (b : List U16) :
    (s.setBuf16 b).phase = s.phase := rfl

@[simp] theorem State.setBuf16_released (s : State) (b : List U16) :
    (s.setBuf16 b).released = s.released := rfl

@[simp] theorem State.setBuf16_has (s : State) (b : List U16) :
    (s.setBuf16 b).has = s.has := rfl

@[simp] theorem State.setBuf16_lvl (s : State) (b : List U16) :
    (s.setBuf16 b).lvl = s.lvl := rfl

@[simp] theorem State.setBuf16_buf8 (s : State) (b : List U16) :
    (s.setBuf16 b).buf8 = s.buf8 := rfl

@[simp] theorem State.setBuf16_buf16 (s : State) (b : List U16) :
    (s.setBuf16 b).buf16 = b := rfl

@[simp] theorem State.setBuf16_payload (s : State) (b : List U16) :
    (s.setBuf16 b).payload = s.payload := rfl

@[simp] theorem State.setBuf16_consumed (s : State) (b : List U16) :
    (s.setBuf16 b).consumed = s.consumed := rfl

@[simp] theorem State.setBuf16_trace (s : State) (b : List U16) :
    (s.setBuf16 b).trace = s.trace := rfl

@[simp] theorem State.setBuf16_responses (s : State) (b : List U16) :
    (s.setBuf16 b).responses = s.responses := rfl

@[simp] theorem State.setBuf16_returned (s : State) (b : List U16) :
    (s.setBuf16 b).returned = s.returned := rfl

@[simp] theorem State.setBuf16_requests (s : State) (b : List U16) :
    (s.setBuf16 b).requests = s.requests := rfl

@[simp] theorem State.setBuf16_env (s : State) (b : List U16) :
    (s.setBuf16 b).env = s.env := rfl

@[simp] theorem State.setBuf16_params (s : State) (b : List U16) :
    (s.setBuf16 b).params = s.params := rfl

/-! ## pushEvent -/

@[simp] theorem State.pushEvent_sizeX (s : State) (e : Event) :
    (s.pushEvent e).sizeX = s.sizeX := rfl

@[simp] theorem State.pushEvent_sizeY (s : State) (e : Event) :
    (s.pushEvent e).sizeY = s.sizeY := rfl

@[simp] theorem State.pushEvent_orientation (s : State) (e : Event) :
    (s.pushEvent e).orientation = s.orientation := rfl

@[simp] theorem State.pushEvent_xStart (s : State) (e : Event) :
    (s.pushEvent e).xStart = s.xStart := rfl

@[simp] theorem State.pushEvent_yStart (s : State) (e : Event) :
    (s.pushEvent e).yStart = s.yStart := rfl

@[simp] theorem State.pushEvent_phase (s : State) (e : Event) :
    (s.pushEvent e).phase = s.phase := rfl

@[simp] theorem State.pushEvent_released (s : State) (e : Event) :
    (s.pushEvent e).released = s.released := rfl

@[simp] theorem State.pushEvent_has (s : State) (e : Event) :
    (s.pushEvent e).has = s.has := rfl

@[simp] theorem State.pushEvent_lvl (s : State) (e : Event) :
    (s.pushEvent e).lvl = s.lvl := rfl

@[simp] theorem State.pushEvent_buf8 (s : State) (e : Event) :
    (s.pushEvent e).buf8 = s.buf8 := rfl

@[simp] theorem State.pushEvent_buf16 (s : State) (e : Event) :
    (s.pushEvent e).buf16 = s.buf16 := rfl

@[simp] theorem State.pushEvent_payload (s : State) (e : Event) :
    (s.pushEvent e).payload = s.payload := rfl

@[simp] theorem State.pushEvent_consumed (s : State) (e : Event) :
    (s.pushEvent e).consumed = s.consumed := rfl

@[simp] theorem State.pushEvent_trace (s : State) (e : Event) :
    (s.pushEvent e).trace = s.trace ++ [e] := rfl

@[simp] theorem State.pushEvent_responses (s : State) (e : Event) :
    (s.pushEvent e).responses = s.responses := rfl

@[simp] theorem State.pushEvent_returned (s : State) (e : Event) :
    (s.pushEvent e).returned = s.returned := rfl

@[simp] theorem State.pushEvent_requests (s : State) (e : Event) :
    (s.pushEvent e).requests = s.requests := rfl

@[simp] theorem State.pushEvent_env (s : State) (e : Event) :
    (s.pushEvent e).env = s.env := rfl

@[simp] theorem State.pushEvent_params (s : State) (e : Event) :
    (s.pushEvent e).params = s.params := rfl

/-! ## pushResponse -/

@[simp] theorem State.pushResponse_sizeX (s : State) (r : Response) :
    (s.pushResponse r).sizeX = s.sizeX := rfl

@[simp] theorem State.pushResponse_sizeY (s : State) (r : Response) :
    (s.pushResponse r).sizeY = s.sizeY := rfl

@[simp] theorem State.pushResponse_orientation (s : State) (r : Response) :
    (s.pushResponse r).orientation = s.orientation := rfl

@[simp] theorem State.pushResponse_xStart (s : State) (r : Response) :
    (s.pushResponse r).xStart = s.xStart := rfl

@[simp] theorem State.pushResponse_yStart (s : State) (r : Response) :
    (s.pushResponse r).yStart = s.yStart := rfl

@[simp] theorem State.pushResponse_phase (s : State) (r : Response) :
    (s.pushResponse r).phase = s.phase := rfl

@[simp] theorem State.pushResponse_released (s : State) (r : Response) :
    (s.pushResponse r).released = s.released := rfl

@[simp] theorem State.pushResponse_has (s : State) (r : Response) :
    (s.pushResponse r).has = s.has := rfl

@[simp] theorem State.pushResponse_lvl (s : State) (r : Response) :
    (s.pushResponse r).lvl = s.lvl := rfl

@[simp] theorem State.pushResponse_buf8 (s : State) (r : Response) :
    (s.pushResponse r).buf8 = s.buf8 := rfl

@[simp] theorem State.pushResponse_buf16 (s : State) (r : Response) :
    (s.pushResponse r).buf16 = s.buf16 := rfl

@[simp] theorem State.pushResponse_payload (s : State) (r : Response) :
    (s.pushResponse r).payload = s.payload := rfl

@[simp] theorem State.pushResponse_consumed (s : State) (r : Response) :
    (s.pushResponse r).consumed = s.consumed := rfl

@[simp] theorem State.pushResponse_trace (s : State) (r : Response) :
    (s.pushResponse r).trace = s.trace := rfl

@[simp] theorem State.pushResponse_responses (s : State) (r : Response) :
    (s.pushResponse r).responses = s.responses ++ [r] := rfl

@[simp] theorem State.pushResponse_returned (s : State) (r : Response) :
    (s.pushResponse r).returned = s.returned := rfl

@[simp] theorem State.pushResponse_requests (s : State) (r : Response) :
    (s.pushResponse r).requests = s.requests := rfl

@[simp] theorem State.pushResponse_env (s : State) (r : Response) :
    (s.pushResponse r).env = s.env := rfl

@[simp] theorem State.pushResponse_params (s : State) (r : Response) :
    (s.pushResponse r).params = s.params := rfl

/-! ## setRequests -/

@[simp] theorem State.setRequests_sizeX (s : State) (rs : List Request) :
    (s.setRequests rs).sizeX = s.sizeX := rfl

@[simp] theorem State.setRequests_sizeY (s : State) (rs : List Request) :
    (s.setRequests rs).sizeY = s.sizeY := rfl

@[simp] theorem State.setRequests_orientation (s : State) (rs : List Request) :
    (s.setRequests rs).orientation = s.orientation := rfl

@[simp] theorem State.setRequests_xStart (s : State) (rs : List Request) :
    (s.setRequests rs).xStart = s.xStart := rfl

@[simp] theorem State.setRequests_yStart (s : State) (rs : List Request) :
    (s.setRequests rs).yStart = s.yStart := rfl

@[simp] theorem State.setRequests_phase (s : State) (rs : List Request) :
    (s.setRequests rs).phase = s.phase := rfl

@[simp] theorem State.setRequests_released (s : State) (rs : List Request) :
    (s.setRequests rs).released = s.released := rfl

@[simp] theorem State.setRequests_has (s : State) (rs : List Request) :
    (s.setRequests rs).has = s.has := rfl

@[simp] theorem State.setRequests_lvl (s : State) (rs : List Request) :
    (s.setRequests rs).lvl = s.lvl := rfl

@[simp] theorem State.setRequests_buf8 (s : State) (rs : List Request) :
    (s.setRequests rs).buf8 = s.buf8 := rfl

@[simp] theorem State.setRequests_buf16 (s : State) (rs : List Request) :
    (s.setRequests rs).buf16 = s.buf16 := rfl

@[simp] theorem State.setRequests_payload (s : State) (rs : List Request) :
    (s.setRequests rs).payload = s.payload := rfl

@[simp] theorem State.setRequests_consumed (s : State) (rs : List Request) :
    (s.setRequests rs).consumed = s.consumed := rfl

@[simp] theorem State.setRequests_trace (s : State) (rs : List Request) :
    (s.setRequests rs).trace = s.trace := rfl

@[simp] theorem State.setRequests_responses (s : State) (rs : List Request) :
    (s.setRequests rs).responses = s.responses := rfl

@[simp] theorem State.setRequests_returned (s : State) (rs : List Request) :
    (s.setRequests rs).returned = s.returned := rfl

@[simp] theorem State.setRequests_requests (s : State) (rs : List Request) :
    (s.setRequests rs).requests = rs := rfl

@[simp] theorem State.setRequests_env (s : State) (rs : List Request) :
    (s.setRequests rs).env = s.env := rfl

@[simp] theorem State.setRequests_params (s : State) (rs : List Request) :
    (s.setRequests rs).params = s.params := rfl

/-! ## setEnv -/

@[simp] theorem State.setEnv_sizeX (s : State) (e : Env) :
    (s.setEnv e).sizeX = s.sizeX := rfl

@[simp] theorem State.setEnv_sizeY (s : State) (e : Env) :
    (s.setEnv e).sizeY = s.sizeY := rfl

@[simp] theorem State.setEnv_orientation (s : State) (e : Env) :
    (s.setEnv e).orientation = s.orientation := rfl

@[simp] theorem State.setEnv_xStart (s : State) (e : Env) :
    (s.setEnv e).xStart = s.xStart := rfl

@[simp] theorem State.setEnv_yStart (s : State) (e : Env) :
    (s.setEnv e).yStart = s.yStart := rfl

@[simp] theorem State.setEnv_phase (s : State) (e : Env) :
    (s.setEnv e).phase = s.phase := rfl

@[simp] theorem State.setEnv_released (s : State) (e : Env) :
    (s.setEnv e).released = s.released := rfl

@[simp] theorem State.setEnv_has (s : State) (e : Env) :
    (s.setEnv e).has = s.has := rfl

@[simp] theorem State.setEnv_lvl (s : State) (e : Env) :
    (s.setEnv e).lvl = s.lvl := rfl

@[simp] theorem State.setEnv_buf8 (s : State) (e : Env) :
    (s.setEnv e).buf8 = s.buf8 := rfl

@[simp] theorem State.setEnv_buf16 (s : State) (e : Env) :
    (s.setEnv e).buf16 = s.buf16 := rfl

@[simp] theorem State.setEnv_payload (s : State) (e : Env) :
    (s.setEnv e).payload = s.payload := rfl

@[simp] theorem State.setEnv_consumed (s : State) (e : Env) :
    (s.setEnv e).consumed = s.consumed := rfl

@[simp] theorem State.setEnv_trace (s : State) (e : Env) :
    (s.setEnv e).trace = s.trace := rfl

@[simp] theorem State.setEnv_responses (s : State) (e : Env) :
    (s.setEnv e).responses = s.responses := rfl

@[simp] theorem State.setEnv_returned (s : State) (e : Env) :
    (s.setEnv e).returned = s.returned := rfl

@[simp] theorem State.setEnv_requests (s : State) (e : Env) :
    (s.setEnv e).requests = s.requests := rfl

@[simp] theorem State.setEnv_env (s : State) (e : Env) :
    (s.setEnv e).env = e := rfl

@[simp] theorem State.setEnv_params (s : State) (e : Env) :
    (s.setEnv e).params = s.params := rfl

/-! ## lend -/

@[simp] theorem State.lend_sizeX (s : State) (p : Payload) :
    (s.lend p).sizeX = s.sizeX := rfl

@[simp] theorem State.lend_sizeY (s : State) (p : Payload) :
    (s.lend p).sizeY = s.sizeY := rfl

@[simp] theorem State.lend_orientation (s : State) (p : Payload) :
    (s.lend p).orientation = s.orientation := rfl

@[simp] theorem State.lend_xStart (s : State) (p : Payload) :
    (s.lend p).xStart = s.xStart := rfl

@[simp] theorem State.lend_yStart (s : State) (p : Payload) :
    (s.lend p).yStart = s.yStart := rfl

@[simp] theorem State.lend_phase (s : State) (p : Payload) :
    (s.lend p).phase = s.phase := rfl

@[simp] theorem State.lend_released (s : State) (p : Payload) :
    (s.lend p).released = s.released := rfl

@[simp] theorem State.lend_has (s : State) (p : Payload) :
    (s.lend p).has = s.has := rfl

@[simp] theorem State.lend_lvl (s : State) (p : Payload) :
    (s.lend p).lvl = s.lvl := rfl

@[simp] theorem State.lend_buf8 (s : State) (p : Payload) :
    (s.lend p).buf8 = s.buf8 := rfl

@[simp] theorem State.lend_buf16 (s : State) (p : Payload) :
    (s.lend p).buf16 = s.buf16 := rfl

@[simp] theorem State.lend_payload (s : State) (p : Payload) :
    (s.lend p).payload = p := rfl

@[simp] theorem State.lend_consumed (s : State) (p : Payload) :
    (s.lend p).consumed = 0 := rfl

@[simp] theorem State.lend_trace (s : State) (p : Payload) :
    (s.lend p).trace = s.trace := rfl

@[simp] theorem State.lend_responses (s : State) (p : Payload) :
    (s.lend p).responses = s.responses := rfl

@[simp] theorem State.lend_returned (s : State) (p : Payload) :
    (s.lend p).returned = s.returned := rfl

@[simp] theorem State.lend_requests (s : State) (p : Payload) :
    (s.lend p).requests = s.requests := rfl

@[simp] theorem State.lend_env (s : State) (p : Payload) :
    (s.lend p).env = s.env := rfl

@[simp] theorem State.lend_params (s : State) (p : Payload) :
    (s.lend p).params = s.params := rfl

/-! ## giveBack -/

@[simp] theorem State.giveBack_sizeX (s : State) :
    (s.giveBack).sizeX = s.sizeX := rfl

@[simp] theorem State.giveBack_sizeY (s : State) :
    (s.giveBack).sizeY = s.sizeY := rfl

@[simp] theorem State.giveBack_orientation (s : State) :
    (s.giveBack).orientation = s.orientation := rfl

@[simp] theorem State.giveBack_xStart (s : State) :
    (s.giveBack).xStart = s.xStart := rfl

@[simp] theorem State.giveBack_yStart (s : State) :
    (s.giveBack).yStart = s.yStart := rfl

@[simp] theorem State.giveBack_phase (s : State) :
    (s.giveBack).phase = s.phase := rfl

@[simp] theorem State.giveBack_released (s : State) :
    (s.giveBack).released = s.released := rfl

@[simp] theorem State.giveBack_has (s : State) :
    (s.giveBack).has = s.has := rfl

@[simp] theorem State.giveBack_lvl (s : State) :
    (s.giveBack).lvl = s.lvl := rfl

@[simp] theorem State.giveBack_buf8 (s : State) :
    (s.giveBack).buf8 = s.buf8 := rfl

@[simp] theorem State.giveBack_buf16 (s : State) :
    (s.giveBack).buf16 = s.buf16 := rfl

@[simp] theorem State.giveBack_payload (s : State) :
    (s.giveBack).payload = s.payload := rfl

@[simp] theorem State.giveBack_consumed (s : State) :
    (s.giveBack).consumed = s.consumed := rfl

@[simp] theorem State.giveBack_trace (s : State) :
    (s.giveBack).trace = s.trace := rfl

@[simp] theorem State.giveBack_responses (s : State) :
    (s.giveBack).responses = s.responses := rfl

@[simp] theorem State.giveBack_returned (s : State) :
    (s.giveBack).returned = s.returned ++ [{ buffer := s.payload, consumed := s.consumed }] := rfl

@[simp] theorem State.giveBack_requests (s : State) :
    (s.giveBack).requests = s.requests := rfl

@[simp] theorem State.giveBack_env (s : State) :
    (s.giveBack).env = s.env := rfl

@[simp] theorem State.giveBack_params (s : State) :
    (s.giveBack).params = s.params := rfl

/-! ## consumeOne -/

@[simp] theorem State.consumeOne_sizeX (s : State) :
    (s.consumeOne).sizeX = s.sizeX := rfl

@[simp] theorem State.consumeOne_sizeY (s : State) :
    (s.consumeOne).sizeY = s.sizeY := rfl

@[simp] theorem State.consumeOne_orientation (s : State) :
    (s.consumeOne).orientation = s.orientation := rfl

@[simp] theorem State.consumeOne_xStart (s : State) :
    (s.consumeOne).xStart = s.xStart := rfl

@[simp] theorem State.consumeOne_yStart (s : State) :
    (s.consumeOne).yStart = s.yStart := rfl

@[simp] theorem State.consumeOne_phase (s : State) :
    (s.consumeOne).phase = s.phase := rfl

@[simp] theorem State.consumeOne_released (s : State) :
    (s.consumeOne).released = s.released := rfl

@[simp] theorem State.consumeOne_has (s : State) :
    (s.consumeOne).has = s.has := rfl

@[simp] theorem State.consumeOne_lvl (s : State) :
    (s.consumeOne).lvl = s.lvl := rfl

@[simp] theorem State.consumeOne_buf8 (s : State) :
    (s.consumeOne).buf8 = s.buf8 := rfl

@[simp] theorem State.consumeOne_buf16 (s : State) :
    (s.consumeOne).buf16 = s.buf16 := rfl

@[simp] theorem State.consumeOne_payload (s : State) :
    (s.consumeOne).payload = s.payload := rfl

@[simp] theorem State.consumeOne_consumed (s : State) :
    (s.consumeOne).consumed = s.consumed + 1 := rfl

@[simp] theorem State.consumeOne_trace (s : State) :
    (s.consumeOne).trace = s.trace := rfl

@[simp] theorem State.consumeOne_responses (s : State) :
    (s.consumeOne).responses = s.responses := rfl

@[simp] theorem State.consumeOne_returned (s : State) :
    (s.consumeOne).returned = s.returned := rfl

@[simp] theorem State.consumeOne_requests (s : State) :
    (s.consumeOne).requests = s.requests := rfl

@[simp] theorem State.consumeOne_env (s : State) :
    (s.consumeOne).env = s.env := rfl

@[simp] theorem State.consumeOne_params (s : State) :
    (s.consumeOne).params = s.params := rfl

/-! ## memWrite16 -/

@[simp] theorem State.memWrite16_sizeX (s : State) (i : Nat) (v : U16) :
    (s.memWrite16 i v).sizeX = s.sizeX := rfl

@[simp] theorem State.memWrite16_sizeY (s : State) (i : Nat) (v : U16) :
    (s.memWrite16 i v).sizeY = s.sizeY := rfl

@[simp] theorem State.memWrite16_orientation (s : State) (i : Nat) (v : U16) :
    (s.memWrite16 i v).orientation = s.orientation := rfl

@[simp] theorem State.memWrite16_xStart (s : State) (i : Nat) (v : U16) :
    (s.memWrite16 i v).xStart = s.xStart := rfl

@[simp] theorem State.memWrite16_yStart (s : State) (i : Nat) (v : U16) :
    (s.memWrite16 i v).yStart = s.yStart := rfl

@[simp] theorem State.memWrite16_phase (s : State) (i : Nat) (v : U16) :
    (s.memWrite16 i v).phase = s.phase := rfl

@[simp] theorem State.memWrite16_released (s : State) (i : Nat) (v : U16) :
    (s.memWrite16 i v).released = s.released := rfl

@[simp] theorem State.memWrite16_has (s : State) (i : Nat) (v : U16) :
    (s.memWrite16 i v).has = s.has := rfl

@[simp] theorem State.memWrite16_lvl (s : State) (i : Nat) (v : U16) :
    (s.memWrite16 i v).lvl = s.lvl := rfl

@[simp] theorem State.memWrite16_buf8 (s : State) (i : Nat) (v : U16) :
    (s.memWrite16 i v).buf8 = s.buf8 := rfl

@[simp] theorem State.memWrite16_buf16 (s : State) (i : Nat) (v : U16) :
    (s.memWrite16 i v).buf16 = s.buf16 := rfl

@[simp] theorem State.memWrite16_payload (s : State) (i : Nat) (v : U16) :
    (s.memWrite16 i v).payload = Payload.write16 s.payload i v := rfl

@[simp] theorem State.memWrite16_consumed (s : State) (i : Nat) (v : U16) :
    (s.memWrite16 i v).consumed = s.consumed := rfl

@[simp] theorem State.memWrite16_trace (s : State) (i : Nat) (v : U16) :
    (s.memWrite16 i v).trace = s.trace := rfl

@[simp] theorem State.memWrite16_responses (s : State) (i : Nat) (v : U16) :
    (s.memWrite16 i v).responses = s.responses := rfl

@[simp] theorem State.memWrite16_returned (s : State) (i : Nat) (v : U16) :
    (s.memWrite16 i v).returned = s.returned := rfl

@[simp] theorem State.memWrite16_requests (s : State) (i : Nat) (v : U16) :
    (s.memWrite16 i v).requests = s.requests := rfl

@[simp] theorem State.memWrite16_env (s : State) (i : Nat) (v : U16) :
    (s.memWrite16 i v).env = s.env := rfl

@[simp] theorem State.memWrite16_params (s : State) (i : Nat) (v : U16) :
    (s.memWrite16 i v).params = s.params := rfl

end Sys2Proof.Machine
end

