-- ==== Sys2Proof/Laws/Ops.lean ====
section
/-! SUPPORT. What each shared operation of Machine/Ops.lean can do, said once: the capability calls, the
sequencing of runs, the environment's answers, the latches along a trace, the conversion loop. -/

namespace Sys2Proof.Machine

/-! ## Lines and latches -/

@[simp] theorem Latches.get_set_same (l : Latches) (line : Line) (v : Level) :
    (l.set line v).get line = v := by cases line <;> rfl

theorem Latches.get_set_ne (l : Latches) {a b : Line} (v : Level) (h : b ≠ a) :
    (l.set a v).get b = l.get b := by cases a <;> cases b <;> first | rfl | exact absurd rfl h

@[simp] theorem latchesAfter_nil (l : Latches) : latchesAfter l [] = l := rfl

@[simp] theorem latchesAfter_cons (l : Latches) (e : Event) (es : List Event) :
    latchesAfter l (e :: es) = latchesAfter (latchesAfterEvent l e) es := rfl

@[simp] theorem latchesAfter_append (l : Latches) (xs ys : List Event) :
    latchesAfter l (xs ++ ys) = latchesAfter (latchesAfter l xs) ys := by
  simp [latchesAfter]

/-! ## The environment -/

theorem Env.answer_next (e : Env) (k : Nat) : e.next.answer k = e.answer (k + 1) := by
  obtain ⟨script, tail⟩ := e
  cases script with
  | cons a rest => simp [Env.next, Env.answer]
  | nil =>
    cases tail with
    | always a => simp [Env.next, Env.answer, Tail.next, Tail.answer]
    | free n =>
      simp only [Env.next, Env.answer, Tail.next, Tail.answer, List.getElem?_nil, List.length_nil]
      congr 1
      omega

theorem answersOk_zero {s : State} (h : AnswersOk s) : s.env.answer 0 = .ok := h 0

/-- An environment that always answers `ok` goes on doing so. -/
theorem envOk_next {e : Env} (h : ∀ k, e.answer k = .ok) : ∀ k, e.next.answer k = .ok := by
  intro k; rw [Env.answer_next]; exact h (k + 1)

theorem answeredBy_append (e : Env) (xs ys : List Event) (e' : Env) :
    answeredBy e (xs ++ ys) e' ↔ ∃ m, answeredBy e xs m ∧ answeredBy m ys e' := by
  induction xs generalizing e with
  | nil => simp [answeredBy]
  | cons x xs ih => cases x <;> simp [answeredBy, ih, and_assoc]

/-- The answers left of an environment that always answers `ok`. -/
theorem envOk_answeredBy {e e' : Env} {es : List Event} (h : ∀ k, e.answer k = .ok)
    (ha : answeredBy e es e') : ∀ k, e'.answer k = .ok := by
  induction es generalizing e with
  | nil => simpa [answeredBy] using ha ▸ h
  | cons x xs ih =>
    cases x with
    | pin l v a => exact ih (envOk_next h) ha.2
    | bus bs a => exact ih (envOk_next h) ha.2
    | delay n => exact ih h ha

/-- Under an environment that always answers `ok` no call fails. -/
theorem envOk_no_failure {e e' : Env} {es : List Event} (h : ∀ k, e.answer k = .ok)
    (ha : answeredBy e es e') : ∀ x ∈ es, x.failed = false := by
  induction es generalizing e with
  | nil => simp
  | cons x xs ih =>
    intro y hy
    rcases List.mem_cons.1 hy with rfl | hm
    · cases y with
      | pin l v a => have := ha.1; rw [h 0] at this; subst this; rfl
      | bus bs a => have := ha.1; rw [h 0] at this; subst this; rfl
      | delay n => rfl
    · cases x with
      | pin l v a => exact ih (envOk_next h) ha.2 y hm
      | bus bs a => exact ih (envOk_next h) ha.2 y hm
      | delay n => exact ih h ha y hm

/-! ## Capability calls -/

theorem pinSet_eq (l : Line) (v : Drive) (s : State) :
    pinSet l v s = (s.env.answer 0,
      { s with env := s.env.next
               trace := s.trace ++ [.pin l v (s.env.answer 0)]
               lvl := s.lvl.set l (latchAfter v (s.env.answer 0)) }) := rfl

theorem busWrite_eq (bs : List U8) (s : State) :
    busWrite bs s = (busAnswer (s.env.answer 0),
      { s with env := s.env.next
               trace := s.trace ++ [.bus bs (busAnswer (s.env.answer 0))] }) := rfl

/-! ## Runs -/

@[simp] theorem succeed_st (s : State) : (succeed s).st = s := rfl
@[simp] theorem succeed_err (s : State) : (succeed s).err = none := rfl
@[simp] theorem raiseErr_st (k : Err) (s : State) : (raiseErr k s).st = s := rfl
@[simp] theorem raiseErr_err (k : Err) (s : State) : (raiseErr k s).err = some k := rfl

@[simp] theorem succeed_andThen (s : State) (f : State → Run) : (succeed s).andThen f = f s := rfl

@[simp] theorem raiseErr_andThen (k : Err) (s : State) (f : State → Run) :
    (raiseErr k s).andThen f = raiseErr k s := rfl

theorem andThen_of_ok {r : Run} (h : r.err = none) (f : State → Run) : r.andThen f = f r.st := by
  simp [Run.andThen, h]

theorem andThen_of_err {r : Run} {k : Err} (h : r.err = some k) (f : State → Run) :
    r.andThen f = r := by
  simp [Run.andThen, h]

theorem andThen_assoc (r : Run) (f g : State → Run) :
    (r.andThen f).andThen g = r.andThen (fun s => (f s).andThen g) := by
  cases h : r.err with
  | none => rw [andThen_of_ok h, andThen_of_ok h]
  | some k => rw [andThen_of_err h, andThen_of_err h, andThen_of_err h]

theorem pinSetOr_eq (kind : PinError → Err) (l : Line) (v : Drive) (s : State) :
    pinSetOr kind l v s =
      { st := (pinSet l v s).2
        err := match s.env.answer 0 with
               | .ok => none
               | .fail e => some (kind e) } := by
  unfold pinSetOr
  rw [pinSet_eq]
  cases h : s.env.answer 0 <;> simp [succeed, raiseErr]

theorem busWriteOr_eq (bs : List U8) (s : State) :
    busWriteOr bs s =
      { st := (busWrite bs s).2
        err := match s.env.answer 0 with
               | .ok => none
               | .fail _ => some .busWriteFailed } := by
  unfold busWriteOr
  rw [busWrite_eq]
  cases h : s.env.answer 0 <;> simp [succeed, raiseErr, busAnswer]

/-! ## Responding, the flag and the window test -/

theorem respond_eq (r : Run) : respond r = .next (r.st.pushResponse r.response) := rfl

theorem respondLent_eq (r : Run) :
    respondLent r = .next (r.st.giveBack.pushResponse r.response) := rfl

theorem ifLive_live {s : State} (h : s.released = false) (o : Host.Outcome State Fault Refusal) :
    ifLive s o = o := by simp [ifLive, h]

theorem ifLive_released {s : State} (h : s.released = true)
    (o : Host.Outcome State Fault Refusal) : ifLive s o = .refused .afterRelease := by
  simp [ifLive, h]

/-- A live request that answers a next state is a live instance's. -/
theorem ifLive_next {s t : State} {o : Host.Outcome State Fault Refusal}
    (h : ifLive s o = .next t) : s.released = false ∧ o = .next t := by
  cases hr : s.released with
  | true => rw [ifLive_released hr] at h; cases h
  | false => rw [ifLive_live hr] at h; exact ⟨rfl, h⟩

/-! ## The conversion loop (40_encoder.md R73, R74) -/

/-- The loop changes nothing but the payload. -/
theorem convertInPlace_frame (f : U16 → U16) (p : List U16) (i : Nat) (s : State) :
    convertInPlace f p i s = { s with payload := (convertInPlace f p i s).payload } := by
  induction p generalizing i s with
  | nil => rfl
  | cons v vs ih => simp only [convertInPlace]; rw [ih]; rfl

/-- Run over a buffer from its beginning, the loop converts every element. -/
theorem convertInPlace_payload (f : U16 → U16) (done rest : List U16) (s : State)
    (h : s.payload = .halves (done ++ rest)) :
    (convertInPlace f rest done.length s).payload = .halves (done ++ rest.map f) := by
  induction rest generalizing done s with
  | nil => simpa [convertInPlace] using h
  | cons v vs ih =>
    have hw : (s.memWrite16 done.length (f v)).payload = .halves ((done ++ [f v]) ++ vs) := by
      simp [h, Payload.write16]
    simpa [convertInPlace] using ih (done ++ [f v]) _ hw

end Sys2Proof.Machine
end

