-- ==== Sys2Proof/Laws/Calls.lean ====
section
/-! SUPPORT. What a run of calls can do, said once: which events it appends (`Emits`), how it ends
(`EndsAt`), and that both compose along `andThen`. The invariants, the frames and the error rules are
read off these. -/

namespace Sys2Proof.Machine

/-- `t` is `s` after the calls `es`: the trace, the latches and the environment follow from the calls;
besides them only the lent buffer, the staging buffers and the phase may differ. -/
structure Emits (s : State) (es : List Event) (t : State) : Prop where
  trace : t.trace = s.trace ++ es
  lvl : t.lvl = latchesAfter s.lvl es
  env : answeredBy s.env es t.env
  rest : t = { s with trace := t.trace, lvl := t.lvl, env := t.env, payload := t.payload,
                      consumed := t.consumed, buf8 := t.buf8, buf16 := t.buf16, phase := t.phase }

/-- Nothing but trace, latches and environment differ. -/
structure Quiet (s t : State) : Prop where
  payload : t.payload = s.payload
  consumed : t.consumed = s.consumed
  buf8 : t.buf8 = s.buf8
  buf16 : t.buf16 = s.buf16
  phase : t.phase = s.phase

theorem Quiet.refl (s : State) : Quiet s s := ⟨rfl, rfl, rfl, rfl, rfl⟩

theorem Quiet.trans {s t u : State} (h : Quiet s t) (k : Quiet t u) : Quiet s u :=
  ⟨k.payload.trans h.payload, k.consumed.trans h.consumed, k.buf8.trans h.buf8,
    k.buf16.trans h.buf16, k.phase.trans h.phase⟩

namespace Emits

variable {s t u : State} {xs ys : List Event}

theorem has (h : Emits s xs t) : t.has = s.has := by rw [h.rest]
theorem params (h : Emits s xs t) : t.params = s.params := by rw [h.rest]
theorem sizeX (h : Emits s xs t) : t.sizeX = s.sizeX := by rw [h.rest]
theorem sizeY (h : Emits s xs t) : t.sizeY = s.sizeY := by rw [h.rest]
theorem orientation (h : Emits s xs t) : t.orientation = s.orientation := by rw [h.rest]
theorem xStart (h : Emits s xs t) : t.xStart = s.xStart := by rw [h.rest]
theorem yStart (h : Emits s xs t) : t.yStart = s.yStart := by rw [h.rest]
theorem released (h : Emits s xs t) : t.released = s.released := by rw [h.rest]
theorem responses (h : Emits s xs t) : t.responses = s.responses := by rw [h.rest]
theorem returned (h : Emits s xs t) : t.returned = s.returned := by rw [h.rest]
theorem requests (h : Emits s xs t) : t.requests = s.requests := by rw [h.rest]

theorem nil (s : State) : Emits s [] s := ⟨by simp, rfl, rfl, rfl⟩

theorem append (h : Emits s xs t) (k : Emits t ys u) : Emits s (xs ++ ys) u where
  trace := by rw [k.trace, h.trace, List.append_assoc]
  lvl := by rw [k.lvl, h.lvl, latchesAfter_append]
  env := (answeredBy_append _ _ _ _).2 ⟨_, h.env, k.env⟩
  rest := by conv_lhs => rw [k.rest, h.rest]

/-- Writing the lent buffer, a staging buffer or the phase is no call. -/
theorem silent (s : State) (p : Payload) (n : Nat) (b : List U8) (c : List U16) (ph : Phase) :
    Emits s [] { s with payload := p, consumed := n, buf8 := b, buf16 := c, phase := ph } :=
  ⟨by simp, rfl, rfl, rfl⟩

end Emits

theorem pinSet_emits (l : Line) (v : Drive) (s : State) :
    Emits s [.pin l v (s.env.answer 0)] (pinSet l v s).2 :=
  ⟨rfl, rfl, ⟨rfl, rfl⟩, rfl⟩

theorem busWrite_emits (bs : List U8) (s : State) :
    Emits s [.bus bs (busAnswer (s.env.answer 0))] (busWrite bs s).2 :=
  ⟨rfl, rfl, ⟨rfl, rfl⟩, rfl⟩

theorem delayUs_emits (n : U32) (s : State) : Emits s [.delay n] (delayUs n s) :=
  ⟨rfl, rfl, rfl, rfl⟩

theorem pinSet_quiet (l : Line) (v : Drive) (s : State) : Quiet s (pinSet l v s).2 :=
  ⟨rfl, rfl, rfl, rfl, rfl⟩

theorem busWrite_quiet (bs : List U8) (s : State) : Quiet s (busWrite bs s).2 :=
  ⟨rfl, rfl, rfl, rfl, rfl⟩

theorem delayUs_quiet (n : U32) (s : State) : Quiet s (delayUs n s) := ⟨rfl, rfl, rfl, rfl, rfl⟩

/-! ## How a run ends -/

/-- No call of the list failed but swallowed deassertions. -/
def Clean (es : List Event) : Prop := ∀ e ∈ es, e.isReportedFailure = false

theorem clean_nil : Clean [] := by simp [Clean]

theorem clean_append {xs ys : List Event} : Clean (xs ++ ys) ↔ Clean xs ∧ Clean ys := by
  simp [Clean, or_imp, forall_and]

theorem clean_single {e : Event} : Clean [e] ↔ e.isReportedFailure = false := by simp [Clean]

/-- A run that appended `es` ended with `err`: with no error nothing failed; an error is that of the
first reported failure `f`, followed by what `Q f` allows; or it is one of the errors `X` that no call
causes. -/
def EndsAt (Q : Event → List Event → Prop) (X : Err → Prop) (es : List Event) (err : Option Err) :
    Prop :=
  match err with
  | none => Clean es
  | some k =>
    (∃ pre f post, es = pre ++ f :: post ∧ Clean pre ∧ f.isReportedFailure = true ∧
      f.errKind = some k ∧ Q f post) ∨ (X k ∧ Clean es)

/-- What follows a failure of a request (R156 (a)). -/
def Follows (s : State) (f : Event) (post : List Event) : Prop :=
  (deassertionFollows s f = true → ∃ a, post = [.pin .cs .high a]) ∧
    (deassertionFollows s f = false → post = [])

/-- The whole of what a run can do, for the events `P` it makes and the errors `X` no call causes. -/
def Does (P : Event → Prop) (X : Err → Prop) (s : State) (r : Run) : Prop :=
  ∃ es, Emits s es r.st ∧ EndsAt (Follows s) X es r.err ∧ (∀ e ∈ es, P e) ∧
    callsAllowed s.has s.lvl es = true ∧ (s.lvl.cs ≠ .low → (latchesAfter s.lvl es).cs ≠ .low)

theorem callsAllowed_append (has : Straps) (l : Latches) (xs ys : List Event) :
    callsAllowed has l (xs ++ ys) =
      (callsAllowed has l xs && callsAllowed has (latchesAfter l xs) ys) := by
  induction xs generalizing l with
  | nil => simp [callsAllowed]
  | cons x xs ih => simp [callsAllowed, ih, Bool.and_assoc]

theorem endsAt_clean_append {Q : Event → List Event → Prop} {X : Err → Prop} {xs ys : List Event}
    {err : Option Err} (hx : Clean xs) (hy : EndsAt Q X ys err) : EndsAt Q X (xs ++ ys) err := by
  cases err with
  | none => exact clean_append.2 ⟨hx, hy⟩
  | some k =>
    rcases hy with ⟨pre, f, post, rfl, hp, hf, hk, hq⟩ | ⟨hk, hc⟩
    · exact .inl ⟨xs ++ pre, f, post, by simp, clean_append.2 ⟨hx, hp⟩, hf, hk, hq⟩
    · exact .inr ⟨hk, clean_append.2 ⟨hx, hc⟩⟩

theorem Follows.of_same {s t : State} (hh : t.has = s.has) (hp : t.params = s.params) :
    Follows t = Follows s := by
  funext f post
  have : deassertionFollows t f = deassertionFollows s f := by
    cases f with
    | pin l v a => cases l <;> simp [deassertionFollows, hh, hp]
    | bus bs a => simp [deassertionFollows, hh]
    | delay n => rfl
  simp [Follows, this]

/-- A step that is no call. -/
theorem does_silent {P : Event → Prop} {X : Err → Prop} {s t : State} (h : Emits s [] t) :
    Does P X s (succeed t) :=
  ⟨[], h, clean_nil, by simp, rfl, by simp⟩

/-- Runs compose (R155: the second happens only where the first raised nothing). -/
theorem Does.andThen {P : Event → Prop} {X : Err → Prop} {s : State} {r : Run} {f : State → Run}
    (h : Does P X s r)
    (k : ∀ t es, Emits s es t → Does P X t (f t)) : Does P X s (r.andThen f) := by
  obtain ⟨xs, hx, he, hP, hc, hl⟩ := h
  cases hr : r.err with
  | some e => rw [andThen_of_err hr]; exact ⟨xs, hx, he, hP, hc, hl⟩
  | none =>
    rw [andThen_of_ok hr]
    obtain ⟨ys, hy, he', hP', hc', hl'⟩ := k _ _ hx
    rw [hr] at he
    rw [Follows.of_same hx.has hx.params] at he'
    rw [hx.has, hx.lvl] at hc'
    rw [hx.lvl] at hl'
    refine ⟨xs ++ ys, hx.append hy, endsAt_clean_append he he', ?_, ?_, ?_⟩
    · intro e h
      rcases List.mem_append.1 h with h | h
      · exact hP e h
      · exact hP' e h
    · rw [callsAllowed_append, hc, hc']; rfl
    · intro h; rw [latchesAfter_append]; exact hl' (hl h)

theorem Does.mono {P P' : Event → Prop} {X X' : Err → Prop} {s : State} {r : Run}
    (h : Does P X s r) (hP : ∀ e, P e → P' e) (hX : ∀ k, X k → X' k) : Does P' X' s r := by
  obtain ⟨xs, hx, he, hp, hc, hl⟩ := h
  refine ⟨xs, hx, ?_, fun e h => hP e (hp e h), hc, hl⟩
  cases hr : r.err with
  | none => rw [hr] at he; exact he
  | some k =>
    rw [hr] at he
    rcases he with h | ⟨h1, h2⟩
    · exact .inl h
    · exact .inr ⟨hX k h1, h2⟩

end Sys2Proof.Machine
end

