-- ==== Sys2Proof/Laws/Decode.lean ====
section
/-! SUPPORT. The fields of a packed request word (30_encoding.md R51), one lemma each, and the codes of
the operands read back (R53, R54). -/

namespace Sys2Proof

section Fields

variable (op : BitVec 4) (fmt : BitVec 3) (a0 a1 a2 a3 : U16)

/-- Every bit of a packed word, the last slot lowest. -/
theorem getLsbD_pack (i : Nat) :
    (packReq op fmt a0 a1 a2 a3).getLsbD i =
      if i < 16 then a3.getLsbD i else if i < 32 then a2.getLsbD (i - 16)
      else if i < 48 then a1.getLsbD (i - 32) else if i < 64 then a0.getLsbD (i - 48)
      else if i < 67 then fmt.getLsbD (i - 64) else if i < 68 then false
      else op.getLsbD (i - 68) := by
  have h : (packReq op fmt a0 a1 a2 a3).getLsbD i =
      BitVec.getLsbD (w := 4 + 1 + 3 + 16 + 16 + 16 + 16)
        (op ++ 0#1 ++ fmt ++ a0 ++ a1 ++ a2 ++ a3) i := rfl
  rw [h, BitVec.getLsbD_append, BitVec.getLsbD_append, BitVec.getLsbD_append,
    BitVec.getLsbD_append, BitVec.getLsbD_append, BitVec.getLsbD_append, BitVec.getLsbD_zero]
  simp only [Nat.sub_sub, Nat.reduceAdd]
  split_ifs <;> first | rfl | omega

@[simp] theorem reqOp_pack : reqOp (packReq op fmt a0 a1 a2 a3) = op := by
  unfold reqOp
  apply BitVec.eq_of_getLsbD_eq
  intro i hi
  rw [BitVec.getLsbD_extractLsb', getLsbD_pack]
  simp only [hi, decide_true, Bool.true_and]
  split_ifs <;> first | omega | (congr 1; omega)

@[simp] theorem reqFmt_pack : reqFmt (packReq op fmt a0 a1 a2 a3) = fmt := by
  unfold reqFmt
  apply BitVec.eq_of_getLsbD_eq
  intro i hi
  rw [BitVec.getLsbD_extractLsb', getLsbD_pack]
  simp only [hi, decide_true, Bool.true_and]
  split_ifs <;> first | omega | (congr 1; omega)

@[simp] theorem reqA0_pack : reqA0 (packReq op fmt a0 a1 a2 a3) = a0 := by
  unfold reqA0
  apply BitVec.eq_of_getLsbD_eq
  intro i hi
  rw [BitVec.getLsbD_extractLsb', getLsbD_pack]
  simp only [hi, decide_true, Bool.true_and]
  split_ifs <;> first | omega | (congr 1; omega)

@[simp] theorem reqA1_pack : reqA1 (packReq op fmt a0 a1 a2 a3) = a1 := by
  unfold reqA1
  apply BitVec.eq_of_getLsbD_eq
  intro i hi
  rw [BitVec.getLsbD_extractLsb', getLsbD_pack]
  simp only [hi, decide_true, Bool.true_and]
  split_ifs <;> first | omega | (congr 1; omega)

@[simp] theorem reqA2_pack : reqA2 (packReq op fmt a0 a1 a2 a3) = a2 := by
  unfold reqA2
  apply BitVec.eq_of_getLsbD_eq
  intro i hi
  rw [BitVec.getLsbD_extractLsb', getLsbD_pack]
  simp only [hi, decide_true, Bool.true_and]
  split_ifs <;> first | omega | (congr 1; omega)

@[simp] theorem reqA3_pack : reqA3 (packReq op fmt a0 a1 a2 a3) = a3 := by
  unfold reqA3
  apply BitVec.eq_of_getLsbD_eq
  intro i hi
  rw [BitVec.getLsbD_extractLsb', getLsbD_pack]
  simp only [hi, decide_true, Bool.true_and]
  split_ifs <;> first | omega | (congr 1; omega)

/-- The header byte `REQ[71:64]`: the operation in its high nibble, bit 67 clear, the format below. -/
theorem header_pack :
    (packReq op fmt a0 a1 a2 a3).extractLsb' 64 8 = op ++ 0#1 ++ fmt := by
  apply BitVec.eq_of_getLsbD_eq
  intro i hi
  rw [BitVec.getLsbD_extractLsb', getLsbD_pack]
  have h : (op ++ 0#1 ++ fmt : BitVec 8).getLsbD i =
      BitVec.getLsbD (w := 4 + 1 + 3) (op ++ 0#1 ++ fmt) i := rfl
  rw [h, BitVec.getLsbD_append, BitVec.getLsbD_append, BitVec.getLsbD_zero]
  simp only [Nat.sub_sub, Nat.reduceAdd, hi, decide_true, Bool.true_and]
  split_ifs <;> first | omega | rfl | (congr 1; omega)

end Fields

@[simp] theorem decodeOrientation_code (o : Orientation) :
    decodeOrientation (o.code.setWidth 16) = o := by cases o <;> rfl

@[simp] theorem decodeTearingMode_code (m : TearingMode) :
    decodeTearingMode (m.code.setWidth 16) = m := by cases m <;> rfl

@[simp] theorem decodeBacklight_code (b : BacklightState) :
    decodeBacklight (b.code.setWidth 16) = b := by cases b <;> rfl

@[simp] theorem decodeSource_fmt (src : Source) : decodeSource src.fmt src.payload = .ok src := by
  cases src <;> rfl

@[simp] theorem low8_setWidth (c : U8) : (c.setWidth 16).extractLsb' 0 8 = c := by
  apply BitVec.eq_of_getLsbD_eq
  intro i hi
  simp [hi]
  omega

end Sys2Proof
end

