-- ==== Sys2Proof/Laws/Encoder.lean ====
section
/-! SUPPORT. What the encoder does, said once: its bus writes are those of `expectedWrites`, up to the
first that fails; what it leaves in the lent buffer, the staging buffers and the count of consumed
elements; and the cutting of lists into runs. -/

namespace Sys2Proof.Machine

/-! ## Cutting a list into runs -/

@[simp] theorem cuts_nil {α : Type} : cuts 32 ([] : List α) = [] := by simp [cuts]

theorem cuts_short {α : Type} {l : List α} (h0 : 0 < l.length) (h : l.length ≤ 32) :
    cuts 32 l = [l] := by
  have hn : (l.length + 32 - 1) / 32 = 1 := by omega
  unfold cuts
  rw [hn]
  simp [List.range_succ, List.take_of_length_le h]

theorem cuts_full {α : Type} (g rest : List α) (h : g.length = 32) :
    cuts 32 (g ++ rest) = g :: cuts 32 rest := by
  have hn : ((g ++ rest).length + 32 - 1) / 32 = (rest.length + 32 - 1) / 32 + 1 := by
    simp only [List.length_append]; omega
  unfold cuts
  rw [hn, List.range_succ_eq_map, List.map_cons, List.map_map]
  congr 1
  · simp [← h]
  · apply List.map_congr_left
    intro k _
    simp only [Function.comp]
    rw [show 32 * (k + 1) = g.length + 32 * k by omega, List.drop_append,
      List.drop_of_length_le (by omega)]
    simp

theorem cuts_flatten {α : Type} (l : List α) : (cuts 32 l).flatten = l := by
  by_cases hs : l.length ≤ 32
  · by_cases h0 : 0 < l.length
    · simp [cuts_short h0 hs]
    · have : l = [] := by simpa using h0
      subst this; simp
  · have ht : (l.take 32).length = 32 := by simp; omega
    have := cuts_full (l.take 32) (l.drop 32) ht
    rw [List.take_append_drop] at this
    rw [this, List.flatten_cons, cuts_flatten (l.drop 32), List.take_append_drop]
termination_by l.length
decreasing_by simp; omega

/-- Converting runs is converting the list. -/
theorem cuts_flatMap_flatten {α : Type} (f : α → List U8) (p : List α) :
    ((cuts 32 p).map (fun run => run.flatMap f)).flatten = p.flatMap f := by
  conv_rhs => rw [← cuts_flatten p]
  generalize cuts 32 p = l
  induction l with
  | nil => rfl
  | cons x xs ih => simp [ih]

/-- The bytes of the expected writes are `Bytes(fmt, p)` (R81). -/
theorem expectedWrites_flatten (native : ByteOrder) (src : Source) :
    (expectedWrites native src).flatten = sourceBytes native src := by
  cases src <;> simp [expectedWrites, sourceBytes, cuts_flatten, cuts_flatMap_flatten]

/-! ## Runs that are a list of bus writes -/

/-- The run makes the bus writes `ws`: all of them with no failure, or a beginning of them, the last of
which failed (R70). -/
def Writes (ws : List (List U8)) (s : State) (r : Run) : Prop :=
  ∃ es, Emits s es r.st ∧
    ((r.err = none ∧ es = ws.map (fun bs => .bus bs .ok)) ∨
      (r.err = some .busWriteFailed ∧ ∃ done bs rest, ws = done ++ bs :: rest ∧
        es = done.map (fun b => .bus b .ok) ++ [.bus bs .fail]))

theorem writes_nil {s t : State} (h : Emits s [] t) : Writes [] s (succeed t) :=
  ⟨[], h, .inl ⟨rfl, rfl⟩⟩

theorem busWriteOr_writes (bs : List U8) (s : State) : Writes [bs] s (busWriteOr bs s) := by
  have hb := busWriteOr_eq bs s
  have hm := busWrite_emits bs s
  cases ha : s.env.answer 0 with
  | ok =>
    rw [ha] at hb hm
    exact ⟨_, by rw [hb]; exact hm, .inl ⟨by rw [hb], rfl⟩⟩
  | fail e =>
    rw [ha] at hb hm
    exact ⟨_, by rw [hb]; exact hm, .inr ⟨by rw [hb], [], bs, [], rfl, rfl⟩⟩

/-- Overwriting the host's buffer or a staging buffer after a run is no call. -/
theorem Writes.then_silent {ws : List (List U8)} {s : State} {r : Run} {t : State}
    (h : Writes ws s r) (k : Emits r.st [] t) : Writes ws s { r with st := t } := by
  obtain ⟨es, h1, h2⟩ := h
  exact ⟨es, by simpa using h1.append k, h2⟩

/-- Overwriting them before a run is no call either. -/
theorem Writes.after_silent {ws : List (List U8)} {s t : State} {r : Run} (k : Emits s [] t)
    (h : Writes ws t r) : Writes ws s r := by
  obtain ⟨es, h1, h2⟩ := h
  exact ⟨es, by simpa using k.append h1, h2⟩

theorem Writes.andThen {w : List U8} {ws : List (List U8)} {s : State} {r : Run}
    {f : State → Run} (h : Writes [w] s r) (k : r.err = none → Writes ws r.st (f r.st)) :
    Writes (w :: ws) s (r.andThen f) := by
  obtain ⟨es, h1, ⟨h2, rfl⟩ | ⟨h2, done, bs, rest, h3, rfl⟩⟩ := h
  · rw [andThen_of_ok h2]
    obtain ⟨es', k1, ⟨k2, rfl⟩ | ⟨k2, done, bs, rest, rfl, rfl⟩⟩ := k h2
    · exact ⟨_, h1.append k1, .inl ⟨k2, rfl⟩⟩
    · exact ⟨_, h1.append k1, .inr ⟨k2, w :: done, bs, rest, rfl, rfl⟩⟩
  · rw [andThen_of_err h2]
    have hd : done = [] ∧ bs = w ∧ rest = [] := by
      cases done with
      | nil => simpa [eq_comm] using h3
      | cons x xs => simp at h3
    obtain ⟨rfl, rfl, rfl⟩ := hd
    exact ⟨_, h1, .inr ⟨h2, [], bs, ws, rfl, rfl⟩⟩

theorem setBuf8_emits (s : State) (b : List U8) : Emits s [] (s.setBuf8 b) :=
  ⟨by simp, rfl, rfl, rfl⟩

theorem setBuf16_emits (s : State) (b : List U16) : Emits s [] (s.setBuf16 b) :=
  ⟨by simp, rfl, rfl, rfl⟩

theorem gather8Step_emits (s : State) (b : List U8) : Emits s [] (s.consumeOne.setBuf8 b) :=
  ⟨by simp, rfl, rfl, rfl⟩

theorem gather16Step_emits (s : State) (b : List U16) : Emits s [] (s.consumeOne.setBuf16 b) :=
  ⟨by simp, rfl, rfl, rfl⟩

theorem flush8_writes (s : State) : Writes [s.buf8] s (flush8 s) :=
  (busWriteOr_writes s.buf8 s).then_silent (setBuf8_emits _ _)

theorem flush16_writes (f : U16 → List U8) (s : State) :
    Writes [s.buf16.flatMap f] s (flush16 f s) :=
  (busWriteOr_writes (s.buf16.flatMap f) s).then_silent (setBuf16_emits _ _)

@[simp] theorem flush8_buf8 (s : State) : (flush8 s).st.buf8 = [] := rfl
@[simp] theorem flush16_buf16 (f : U16 → List U8) (s : State) : (flush16 f s).st.buf16 = [] := rfl

theorem flush8_quietBut (s : State) : (flush8 s).st.payload = s.payload ∧
    (flush8 s).st.consumed = s.consumed ∧ (flush8 s).st.buf16 = s.buf16 ∧
    (flush8 s).st.phase = s.phase := by
  simp [flush8, busWriteOr_eq, busWrite_eq]

theorem flush16_quietBut (f : U16 → List U8) (s : State) :
    (flush16 f s).st.payload = s.payload ∧ (flush16 f s).st.consumed = s.consumed ∧
    (flush16 f s).st.buf8 = s.buf8 ∧ (flush16 f s).st.phase = s.phase := by
  simp [flush16, busWriteOr_eq, busWrite_eq]

/-- The loop of R75: from a buffer not yet full, it writes the runs of what is gathered and what is
left, and leaves the buffer dead. -/
theorem gather8_writes (rest : List U8) (s : State) (h : s.buf8.length < 32) :
    Writes (cuts 32 (s.buf8 ++ rest)) s (gather8 rest s) := by
  induction rest generalizing s with
  | nil =>
    by_cases h0 : s.buf8.length = 0
    · have hb : s.buf8 = [] := by simpa using h0
      simpa [gather8, State.n8, hb] using writes_nil (Emits.nil s)
    · rw [List.append_nil, cuts_short (by omega) (by omega)]
      simpa [gather8, State.n8, h0] using flush8_writes s
  | cons v vs ih =>
    have hs := gather8Step_emits s (s.buf8 ++ [v])
    have hl : s.buf8 ++ v :: vs = (s.buf8 ++ [v]) ++ vs := by simp
    apply Writes.after_silent hs
    by_cases hf : s.buf8.length + 1 = 32
    · rw [hl, cuts_full _ _ (by simpa using hf)]
      have : gather8 (v :: vs) s =
          (flush8 (s.consumeOne.setBuf8 (s.buf8 ++ [v]))).andThen (gather8 vs) := by
        simp [gather8, State.n8, Config.buf8Elems, hf]
      rw [this]
      refine (flush8_writes _).andThen (fun _ => ?_)
      simpa using ih (flush8 (s.consumeOne.setBuf8 (s.buf8 ++ [v]))).st (by simp)
    · have : gather8 (v :: vs) s = gather8 vs (s.consumeOne.setBuf8 (s.buf8 ++ [v])) := by
        simp [gather8, State.n8, Config.buf8Elems, hf]
      rw [this, hl]
      exact ih (s.consumeOne.setBuf8 (s.buf8 ++ [v])) (by simp; omega)

/-- The loop of R76 and R77. -/
theorem gather16_writes (f : U16 → List U8) (rest : List U16) (s : State)
    (h : s.buf16.length < 32) :
    Writes ((cuts 32 (s.buf16 ++ rest)).map (fun run => run.flatMap f)) s (gather16 f rest s) := by
  induction rest generalizing s with
  | nil =>
    by_cases h0 : s.buf16.length = 0
    · have hb : s.buf16 = [] := by simpa using h0
      simpa [gather16, State.n16, hb] using writes_nil (Emits.nil s)
    · rw [List.append_nil, cuts_short (by omega) (by omega)]
      simpa [gather16, State.n16, h0] using flush16_writes f s
  | cons v vs ih =>
    have hs := gather16Step_emits s (s.buf16 ++ [v])
    have hl : s.buf16 ++ v :: vs = (s.buf16 ++ [v]) ++ vs := by simp
    apply Writes.after_silent hs
    by_cases hf : s.buf16.length + 1 = 32
    · rw [hl, cuts_full _ _ (by simpa using hf), List.map_cons]
      have : gather16 f (v :: vs) s =
          (flush16 f (s.consumeOne.setBuf16 (s.buf16 ++ [v]))).andThen (gather16 f vs) := by
        simp [gather16, State.n16, Config.buf16Elems, hf]
      rw [this]
      refine (flush16_writes f _).andThen (fun _ => ?_)
      simpa using ih (flush16 f (s.consumeOne.setBuf16 (s.buf16 ++ [v]))).st (by simp)
    · have : gather16 f (v :: vs) s = gather16 f vs (s.consumeOne.setBuf16 (s.buf16 ++ [v])) := by
        simp [gather16, State.n16, Config.buf16Elems, hf]
      rw [this, hl]
      exact ih (s.consumeOne.setBuf16 (s.buf16 ++ [v])) (by simp; omega)

/-- Every arm but `Unsupported` makes its expected writes (R71 to R77). -/
theorem encodeSource_writes (src : Source) (s : State) (h : ∀ p, src ≠ .unsupported p) :
    Writes (expectedWrites s.params.nativeOrder src) s (encodeSource src s) := by
  have hc : ∀ (f : U16 → U16) (p : List U16),
      Emits s [] (convertInPlace f p 0 s) := by
    intro f p; rw [convertInPlace_frame]; exact Emits.silent s _ _ _ _ _
  cases src with
  | u8 p => exact busWriteOr_writes p s
  | u16 p => exact busWriteOr_writes _ s
  | u16be p => exact (busWriteOr_writes _ _).after_silent (hc _ p)
  | u16le p => exact (busWriteOr_writes _ _).after_silent (hc _ p)
  | u8Iter p => exact (gather8_writes p (s.setBuf8 []) (by simp)).after_silent (setBuf8_emits s [])
  | u16beIter p =>
    exact (gather16_writes be16 p (s.setBuf16 []) (by simp)).after_silent (setBuf16_emits s [])
  | u16leIter p =>
    exact (gather16_writes le16 p (s.setBuf16 []) (by simp)).after_silent (setBuf16_emits s [])
  | unsupported p => exact absurd rfl (h p)

/-! ## What the encoder leaves -/

theorem gather8_leaves (rest : List U8) (s : State) (h : s.buf8.length < 32) :
    (gather8 rest s).st.payload = s.payload ∧ (gather8 rest s).st.buf8 = [] ∧
    (gather8 rest s).st.buf16 = s.buf16 ∧ (gather8 rest s).st.phase = s.phase ∧
    ((gather8 rest s).err = none → (gather8 rest s).st.consumed = s.consumed + rest.length) ∧
    (gather8 rest s).st.consumed ≤ s.consumed + rest.length := by
  induction rest generalizing s with
  | nil =>
    by_cases h0 : s.buf8.length = 0
    · have hb : s.buf8 = [] := by simpa using h0
      simp [gather8, State.n8, hb]
    · obtain ⟨a, b, c, d⟩ := flush8_quietBut s
      simp [gather8, State.n8, h0, a, b, c, d]
  | cons v vs ih =>
    by_cases hf : s.buf8.length + 1 = 32
    · have he : gather8 (v :: vs) s =
          (flush8 (s.consumeOne.setBuf8 (s.buf8 ++ [v]))).andThen (gather8 vs) := by
        simp [gather8, State.n8, Config.buf8Elems, hf]
      obtain ⟨a, b, c, d⟩ := flush8_quietBut (s.consumeOne.setBuf8 (s.buf8 ++ [v]))
      simp only [State.setBuf8_payload, State.consumeOne_payload, State.setBuf8_consumed,
        State.consumeOne_consumed, State.setBuf8_buf16, State.consumeOne_buf16,
        State.setBuf8_phase, State.consumeOne_phase] at a b c d
      rw [he]
      cases hr : (flush8 (s.consumeOne.setBuf8 (s.buf8 ++ [v]))).err with
      | none =>
        rw [andThen_of_ok hr]
        obtain ⟨i1, i2, i3, i4, i5, i6⟩ :=
          ih (flush8 (s.consumeOne.setBuf8 (s.buf8 ++ [v]))).st (by simp)
        rw [a] at i1; rw [c] at i3; rw [d] at i4; rw [b] at i5 i6
        refine ⟨i1, i2, i3, i4, fun hn => ?_, ?_⟩
        · rw [i5 hn]; simp; omega
        · simp; omega
      | some k =>
        rw [andThen_of_err hr]
        exact ⟨a, by simp, c, d, by simp [hr], by rw [b]; simp⟩
    · have he : gather8 (v :: vs) s = gather8 vs (s.consumeOne.setBuf8 (s.buf8 ++ [v])) := by
        simp [gather8, State.n8, Config.buf8Elems, hf]
      rw [he]
      obtain ⟨i1, i2, i3, i4, i5, i6⟩ :=
        ih (s.consumeOne.setBuf8 (s.buf8 ++ [v])) (by simp; omega)
      simp only [State.setBuf8_payload, State.consumeOne_payload, State.setBuf8_consumed,
        State.consumeOne_consumed, State.setBuf8_buf16, State.consumeOne_buf16,
        State.setBuf8_phase, State.consumeOne_phase] at i1 i3 i4 i5 i6
      refine ⟨i1, i2, i3, i4, fun hn => ?_, ?_⟩
      · rw [i5 hn]; simp; omega
      · simp; omega

theorem gather16_leaves (f : U16 → List U8) (rest : List U16) (s : State)
    (h : s.buf16.length < 32) :
    (gather16 f rest s).st.payload = s.payload ∧ (gather16 f rest s).st.buf16 = [] ∧
    (gather16 f rest s).st.buf8 = s.buf8 ∧ (gather16 f rest s).st.phase = s.phase ∧
    ((gather16 f rest s).err = none →
      (gather16 f rest s).st.consumed = s.consumed + rest.length) ∧
    (gather16 f rest s).st.consumed ≤ s.consumed + rest.length := by
  induction rest generalizing s with
  | nil =>
    by_cases h0 : s.buf16.length = 0
    · have hb : s.buf16 = [] := by simpa using h0
      simp [gather16, State.n16, hb]
    · obtain ⟨a, b, c, d⟩ := flush16_quietBut f s
      simp [gather16, State.n16, h0, a, b, c, d]
  | cons v vs ih =>
    by_cases hf : s.buf16.length + 1 = 32
    · have he : gather16 f (v :: vs) s =
          (flush16 f (s.consumeOne.setBuf16 (s.buf16 ++ [v]))).andThen (gather16 f vs) := by
        simp [gather16, State.n16, Config.buf16Elems, hf]
      obtain ⟨a, b, c, d⟩ := flush16_quietBut f (s.consumeOne.setBuf16 (s.buf16 ++ [v]))
      simp only [State.setBuf16_payload, State.consumeOne_payload, State.setBuf16_consumed,
        State.consumeOne_consumed, State.setBuf16_buf8, State.consumeOne_buf8,
        State.setBuf16_phase, State.consumeOne_phase] at a b c d
      rw [he]
      cases hr : (flush16 f (s.consumeOne.setBuf16 (s.buf16 ++ [v]))).err with
      | none =>
        rw [andThen_of_ok hr]
        obtain ⟨i1, i2, i3, i4, i5, i6⟩ :=
          ih (flush16 f (s.consumeOne.setBuf16 (s.buf16 ++ [v]))).st (by simp)
        rw [a] at i1; rw [c] at i3; rw [d] at i4; rw [b] at i5 i6
        refine ⟨i1, i2, i3, i4, fun hn => ?_, ?_⟩
        · rw [i5 hn]; simp; omega
        · simp; omega
      | some k =>
        rw [andThen_of_err hr]
        exact ⟨a, by simp, c, d, by simp [hr], by rw [b]; simp⟩
    · have he : gather16 f (v :: vs) s = gather16 f vs (s.consumeOne.setBuf16 (s.buf16 ++ [v])) := by
        simp [gather16, State.n16, Config.buf16Elems, hf]
      rw [he]
      obtain ⟨i1, i2, i3, i4, i5, i6⟩ :=
        ih (s.consumeOne.setBuf16 (s.buf16 ++ [v])) (by simp; omega)
      simp only [State.setBuf16_payload, State.consumeOne_payload, State.setBuf16_consumed,
        State.consumeOne_consumed, State.setBuf16_buf8, State.consumeOne_buf8,
        State.setBuf16_phase, State.consumeOne_phase] at i1 i3 i4 i5 i6
      refine ⟨i1, i2, i3, i4, fun hn => ?_, ?_⟩
      · rw [i5 hn]; simp; omega
      · simp; omega

/-- What `Encode(fmt, p)` leaves of the host's buffer, the staging buffers, the phase and the count,
from a state in which `p` is the lent payload and nothing of it is consumed. -/
theorem encodeSource_leaves (src : Source) (s : State) (hp : s.payload = src.payload) :
    (encodeSource src s).st.payload = payloadAfter s.params.nativeOrder src ∧
    (encodeSource src s).st.buf8 = buf8After s src ∧
    (encodeSource src s).st.buf16 = buf16After s src ∧
    (encodeSource src s).st.phase = s.phase ∧
    ((encodeSource src s).err = none →
      (encodeSource src s).st.consumed = s.consumed + consumedAfter src) ∧
    (encodeSource src s).st.consumed ≤ s.consumed + consumedAfter src := by
  cases src with
  | u8 p =>
    simpa [encodeSource, encodeU8, busWriteOr_eq, busWrite_eq, payloadAfter, buf8After, buf16After,
      consumedAfter, Source.payload] using hp
  | u16 p =>
    simpa [encodeSource, encodeU16, busWriteOr_eq, busWrite_eq, payloadAfter, buf8After,
      buf16After, consumedAfter, Source.payload] using hp
  | u16be p =>
    have := convertInPlace_payload (convert16 .be s.params.nativeOrder) [] p s hp
    simp only [encodeSource, encodeU16BE, busWriteOr_eq, busWrite_eq]
    rw [convertInPlace_frame]
    simpa [payloadAfter, buf8After, buf16After, consumedAfter] using this
  | u16le p =>
    have := convertInPlace_payload (convert16 .le s.params.nativeOrder) [] p s hp
    simp only [encodeSource, encodeU16LE, busWriteOr_eq, busWrite_eq]
    rw [convertInPlace_frame]
    simpa [payloadAfter, buf8After, buf16After, consumedAfter] using this
  | u8Iter p =>
    have := gather8_leaves p (s.setBuf8 []) (by simp)
    simpa [encodeSource, encodeU8Iter, payloadAfter, buf8After, buf16After, consumedAfter,
      Source.payload, hp] using this
  | u16beIter p =>
    obtain ⟨a, b, c, d, e, g⟩ := gather16_leaves be16 p (s.setBuf16 []) (by simp)
    simp only [State.setBuf16_payload, State.setBuf16_buf8, State.setBuf16_phase,
      State.setBuf16_consumed] at a b c d e g
    exact ⟨a.trans hp, c, b, d, e, g⟩
  | u16leIter p =>
    obtain ⟨a, b, c, d, e, g⟩ := gather16_leaves le16 p (s.setBuf16 []) (by simp)
    simp only [State.setBuf16_payload, State.setBuf16_buf8, State.setBuf16_phase,
      State.setBuf16_consumed] at a b c d e g
    exact ⟨a.trans hp, c, b, d, e, g⟩
  | unsupported p =>
    simpa [encodeSource, encodeUnsupported, payloadAfter, buf8After, buf16After, consumedAfter,
      Source.payload] using hp

/-- A byte slice that is not the host's buffer leaves everything but the calls' effects alone. -/
theorem encodeU8_quiet (p : List U8) (s : State) : Quiet s (encodeSource (.u8 p) s).st := by
  simp only [encodeSource, encodeU8, busWriteOr_eq]
  exact busWrite_quiet p s

/-! ## What the encoder has consumed -/

/-- The number of bytes a list of events put on the bus. -/
def busCount (es : List Event) : Nat := (es.map Event.busBytes).flatten.length

@[simp] theorem busCount_nil : busCount [] = 0 := rfl

theorem busCount_append (xs ys : List Event) : busCount (xs ++ ys) = busCount xs + busCount ys := by
  simp [busCount]

theorem flush8_counts (s : State) :
    ∃ es, (flush8 s).st.trace = s.trace ++ es ∧ busCount es = s.buf8.length :=
  ⟨[.bus s.buf8 (busAnswer (s.env.answer 0))], by simp [flush8, busWriteOr_eq, busWrite_eq],
    by simp [busCount, Event.busBytes]⟩

theorem flush16_counts (f : U16 → List U8) (hf : ∀ v, (f v).length = 2) (s : State) :
    ∃ es, (flush16 f s).st.trace = s.trace ++ es ∧ busCount es = 2 * s.buf16.length := by
  refine ⟨[.bus (s.buf16.flatMap f) (busAnswer (s.env.answer 0))],
    by simp [flush16, busWriteOr_eq, busWrite_eq], ?_⟩
  have : ∀ l : List U16, (l.flatMap f).length = 2 * l.length := by
    intro l
    induction l with
    | nil => rfl
    | cons x xs ih => simp [List.flatMap_cons, hf, ih]; omega
  simpa [busCount, Event.busBytes] using this s.buf16

/-- Every element pulled was written, in the write that succeeded or in the one that failed (R79). -/
theorem gather8_counts (rest : List U8) (s : State) (h : s.buf8.length < 32) :
    ∃ es, (gather8 rest s).st.trace = s.trace ++ es ∧
      busCount es + s.consumed = s.buf8.length + (gather8 rest s).st.consumed := by
  induction rest generalizing s with
  | nil =>
    by_cases h0 : s.buf8.length = 0
    · exact ⟨[], by simp [gather8, State.n8, h0], by simp [gather8, State.n8, h0]⟩
    · obtain ⟨es, h1, h2⟩ := flush8_counts s
      have he : gather8 [] s = flush8 s := by simp [gather8, State.n8, h0]
      exact ⟨es, by rw [he]; exact h1, by rw [he, (flush8_quietBut s).2.1]; omega⟩
  | cons v vs ih =>
    by_cases hf : s.buf8.length + 1 = 32
    · have he : gather8 (v :: vs) s =
          (flush8 (s.consumeOne.setBuf8 (s.buf8 ++ [v]))).andThen (gather8 vs) := by
        simp [gather8, State.n8, Config.buf8Elems, hf]
      obtain ⟨es, h1, h2⟩ := flush8_counts (s.consumeOne.setBuf8 (s.buf8 ++ [v]))
      have hc := (flush8_quietBut (s.consumeOne.setBuf8 (s.buf8 ++ [v]))).2.1
      simp only [State.setBuf8_trace, State.consumeOne_trace, State.setBuf8_buf8,
        List.length_append, List.length_singleton] at h1 h2
      simp only [State.setBuf8_consumed, State.consumeOne_consumed] at hc
      rw [he]
      cases hr : (flush8 (s.consumeOne.setBuf8 (s.buf8 ++ [v]))).err with
      | none =>
        rw [andThen_of_ok hr]
        obtain ⟨es', k1, k2⟩ := ih (flush8 (s.consumeOne.setBuf8 (s.buf8 ++ [v]))).st (by simp)
        refine ⟨es ++ es', by rw [k1, h1, List.append_assoc], ?_⟩
        rw [hc, flush8_buf8] at k2
        rw [busCount_append]
        simp only [List.length_nil] at k2
        omega
      | some k =>
        rw [andThen_of_err hr]
        exact ⟨es, h1, by rw [hc]; omega⟩
    · have he : gather8 (v :: vs) s = gather8 vs (s.consumeOne.setBuf8 (s.buf8 ++ [v])) := by
        simp [gather8, State.n8, Config.buf8Elems, hf]
      obtain ⟨es, h1, h2⟩ := ih (s.consumeOne.setBuf8 (s.buf8 ++ [v])) (by simp; omega)
      simp only [State.setBuf8_trace, State.consumeOne_trace, State.setBuf8_buf8,
        List.length_append, List.length_singleton, State.setBuf8_consumed,
        State.consumeOne_consumed] at h1 h2
      exact ⟨es, by rw [he]; exact h1, by rw [he]; omega⟩

theorem gather16_counts (f : U16 → List U8) (hf2 : ∀ v, (f v).length = 2) (rest : List U16)
    (s : State) (h : s.buf16.length < 32) :
    ∃ es, (gather16 f rest s).st.trace = s.trace ++ es ∧
      busCount es + 2 * s.consumed = 2 * s.buf16.length + 2 * (gather16 f rest s).st.consumed := by
  induction rest generalizing s with
  | nil =>
    by_cases h0 : s.buf16.length = 0
    · exact ⟨[], by simp [gather16, State.n16, h0], by simp [gather16, State.n16, h0]⟩
    · obtain ⟨es, h1, h2⟩ := flush16_counts f hf2 s
      have he : gather16 f [] s = flush16 f s := by simp [gather16, State.n16, h0]
      exact ⟨es, by rw [he]; exact h1, by rw [he, (flush16_quietBut f s).2.1]; omega⟩
  | cons v vs ih =>
    by_cases hf : s.buf16.length + 1 = 32
    · have he : gather16 f (v :: vs) s =
          (flush16 f (s.consumeOne.setBuf16 (s.buf16 ++ [v]))).andThen (gather16 f vs) := by
        simp [gather16, State.n16, Config.buf16Elems, hf]
      obtain ⟨es, h1, h2⟩ := flush16_counts f hf2 (s.consumeOne.setBuf16 (s.buf16 ++ [v]))
      have hc := (flush16_quietBut f (s.consumeOne.setBuf16 (s.buf16 ++ [v]))).2.1
      simp only [State.setBuf16_trace, State.consumeOne_trace, State.setBuf16_buf16,
        List.length_append, List.length_singleton] at h1 h2
      simp only [State.setBuf16_consumed, State.consumeOne_consumed] at hc
      rw [he]
      cases hr : (flush16 f (s.consumeOne.setBuf16 (s.buf16 ++ [v]))).err with
      | none =>
        rw [andThen_of_ok hr]
        obtain ⟨es', k1, k2⟩ :=
          ih (flush16 f (s.consumeOne.setBuf16 (s.buf16 ++ [v]))).st (by simp)
        refine ⟨es ++ es', by rw [k1, h1, List.append_assoc], ?_⟩
        rw [hc, flush16_buf16] at k2
        rw [busCount_append]
        simp only [List.length_nil] at k2
        omega
      | some k =>
        rw [andThen_of_err hr]
        exact ⟨es, h1, by rw [hc]; omega⟩
    · have he : gather16 f (v :: vs) s = gather16 f vs (s.consumeOne.setBuf16 (s.buf16 ++ [v])) := by
        simp [gather16, State.n16, Config.buf16Elems, hf]
      obtain ⟨es, h1, h2⟩ := ih (s.consumeOne.setBuf16 (s.buf16 ++ [v])) (by simp; omega)
      simp only [State.setBuf16_trace, State.consumeOne_trace, State.setBuf16_buf16,
        List.length_append, List.length_singleton, State.setBuf16_consumed,
        State.consumeOne_consumed] at h1 h2
      exact ⟨es, by rw [he]; exact h1, by rw [he]; omega⟩

/-- The size in bytes of an element pulled from a source as an iterator; 0 where nothing is pulled. -/
def pulledBytes : Source → Nat
  | .u8Iter _ => 1
  | .u16beIter _ => 2
  | .u16leIter _ => 2
  | .u8 _ => 0
  | .u16 _ => 0
  | .u16be _ => 0
  | .u16le _ => 0
  | .unsupported _ => 0

/-- An iterator is consumed exactly as far as its elements were put into bus writes (R79). -/
theorem encodeSource_counts (src : Source) (s : State) (h : pulledBytes src ≠ 0) :
    ∃ es, (encodeSource src s).st.trace = s.trace ++ es ∧
      busCount es + pulledBytes src * s.consumed =
        pulledBytes src * (encodeSource src s).st.consumed := by
  cases src with
  | u8Iter p =>
    obtain ⟨es, h1, h2⟩ := gather8_counts p (s.setBuf8 []) (by simp)
    exact ⟨es, h1, by simpa [encodeSource, encodeU8Iter, pulledBytes] using h2⟩
  | u16beIter p =>
    obtain ⟨es, h1, h2⟩ := gather16_counts be16 (fun _ => rfl) p (s.setBuf16 []) (by simp)
    exact ⟨es, h1, by simpa [encodeSource, encodeU16BEIter, pulledBytes] using h2⟩
  | u16leIter p =>
    obtain ⟨es, h1, h2⟩ := gather16_counts le16 (fun _ => rfl) p (s.setBuf16 []) (by simp)
    exact ⟨es, h1, by simpa [encodeSource, encodeU16LEIter, pulledBytes] using h2⟩
  | _ => exact absurd rfl h

end Sys2Proof.Machine
end

