-- ==== Sys2Proof/Laws/Sequencer.lean ====
section
/-! SUPPORT. What one transmission can do, said once (`xmit_spec`): its events by the place it fails
(41_sequencer.md R90, R95, R96), its error, and what it leaves of the payload and the buffers. -/

namespace Sys2Proof.Machine

/-! ## The shapes of an encoder call and of a transmission -/

/-- The events and the error of an encoder call (R70, R80). -/
inductive EncodeOutcome (native : ByteOrder) : Source → List Event → Option Err → Prop where
  | all (src : Source) (h : ∀ p, src ≠ .unsupported p) :
      EncodeOutcome native src ((expectedWrites native src).map (fun bs => .bus bs .ok)) none
  | failed (src : Source) (done rest : List (List U8)) (bs : List U8)
      (h : expectedWrites native src = done ++ bs :: rest) :
      EncodeOutcome native src (done.map (fun b => .bus b .ok) ++ [.bus bs .fail])
        (some .busWriteFailed)
  | unsupported (p : Payload) :
      EncodeOutcome native (.unsupported p) [] (some .formatNotImplemented)

/-- The events and the error of a transmission. -/
inductive XmitOutcome (s : State) (kind : Kind) (src : Source) : List Event → Option Err → Prop where
  | assertFailed (e : PinError) (a : Answer) (hc : s.has.cs = true) :
      XmitOutcome s kind src
        (.pin .cs .low (.fail e) ::
          (if s.params.csReleaseOnAssertFail then [.pin .cs .high a] else [])) (some .csFailed)
  | selectFailed (e : PinError) (a : Answer) (hd : s.has.dc = true) :
      XmitOutcome s kind src
        (ifPresent s.has.cs (.pin .cs .low .ok) ++ ([.pin .dc kind.dcLevel (.fail e)] ++
          ifPresent s.has.cs (.pin .cs .high a))) (some .dcFailed)
  | encoded (ws : List Event) (err : Option Err) (a : Answer)
      (h : EncodeOutcome s.params.nativeOrder src ws err) :
      XmitOutcome s kind src
        (ifPresent s.has.cs (.pin .cs .low .ok) ++ (ifPresent s.has.dc (.pin .dc kind.dcLevel .ok) ++
          (ws ++ ifPresent s.has.cs (.pin .cs .high a)))) err

theorem encodeSource_spec (src : Source) (s : State) :
    ∃ es, Emits s es (encodeSource src s).st ∧
      EncodeOutcome s.params.nativeOrder src es (encodeSource src s).err := by
  by_cases h : ∃ p, src = .unsupported p
  · obtain ⟨p, rfl⟩ := h
    exact ⟨[], Emits.nil s, .unsupported p⟩
  · obtain ⟨es, h1, ⟨h2, rfl⟩ | ⟨h2, done, bs, rest, h3, rfl⟩⟩ :=
      encodeSource_writes src s (fun p hp => h ⟨p, hp⟩)
    · exact ⟨_, h1, by rw [h2]; exact .all src (fun p hp => h ⟨p, hp⟩)⟩
    · exact ⟨_, h1, by rw [h2]; exact .failed src done rest bs h3⟩

theorem releaseCs_spec (s : State) :
    ∃ a, Emits s (ifPresent s.has.cs (.pin .cs .high a)) (releaseCs s) := by
  cases h : s.has.cs with
  | false => exact ⟨.ok, by simpa [releaseCs, h, ifPresent] using Emits.nil s⟩
  | true => exact ⟨_, by simpa [releaseCs, h, ifPresent] using pinSet_emits .cs .high s⟩

theorem releaseCs_quiet (s : State) : Quiet s (releaseCs s) := by
  cases h : s.has.cs with
  | false => simpa [releaseCs, h] using Quiet.refl s
  | true => simpa [releaseCs, h] using pinSet_quiet .cs .high s

theorem selectDc_spec (kind : Kind) (s : State) :
    ((selectDc kind s).err = none ∧
      Emits s (ifPresent s.has.dc (.pin .dc kind.dcLevel .ok)) (selectDc kind s).st) ∨
    (∃ e, s.has.dc = true ∧ (selectDc kind s).err = some .dcFailed ∧
      Emits s [.pin .dc kind.dcLevel (.fail e)] (selectDc kind s).st) := by
  cases h : s.has.dc with
  | false => exact .inl ⟨by simp [selectDc, h], by simpa [selectDc, h, ifPresent] using Emits.nil s⟩
  | true =>
    have hm := pinSet_emits .dc kind.dcLevel s
    cases ha : s.env.answer 0 with
    | ok =>
      rw [ha] at hm
      exact .inl ⟨by simp [selectDc, h, pinSetOr_eq, ha],
        by simpa [selectDc, h, ifPresent, pinSetOr_eq] using hm⟩
    | fail e =>
      rw [ha] at hm
      exact .inr ⟨e, rfl, by simp [selectDc, h, pinSetOr_eq, ha],
        by simpa [selectDc, h, pinSetOr_eq] using hm⟩

theorem selectDc_quiet (kind : Kind) (s : State) : Quiet s (selectDc kind s).st := by
  cases h : s.has.dc with
  | false => simpa [selectDc, h] using Quiet.refl s
  | true => simpa [selectDc, h, pinSetOr_eq] using pinSet_quiet .dc kind.dcLevel s

theorem assertCs_spec (s : State) :
    ((assertCs s).err = none ∧
      Emits s (ifPresent s.has.cs (.pin .cs .low .ok)) (assertCs s).st) ∨
    (∃ e a, s.has.cs = true ∧ (assertCs s).err = some .csFailed ∧
      Emits s (.pin .cs .low (.fail e) ::
        (if s.params.csReleaseOnAssertFail then [.pin .cs .high a] else [])) (assertCs s).st) := by
  cases h : s.has.cs with
  | false => exact .inl ⟨by simp [assertCs, h], by simpa [assertCs, h, ifPresent] using Emits.nil s⟩
  | true =>
    have hm := pinSet_emits .cs .low s
    cases ha : s.env.answer 0 with
    | ok =>
      rw [ha] at hm
      exact .inl ⟨by simp [assertCs, h, pinSet_eq, ha, succeed],
        by simpa [assertCs, h, ifPresent, pinSet_eq, ha, succeed] using hm⟩
    | fail e =>
      rw [ha] at hm
      have k := pinSet_emits .cs .high (pinSet .cs .low s).2
      refine .inr ⟨e, (pinSet .cs .low s).2.env.answer 0, rfl,
        by simp [assertCs, h, pinSet_eq, ha, raiseErr], ?_⟩
      cases hr : s.params.csReleaseOnAssertFail with
      | false => simpa [assertCs, h, pinSet_eq, ha, hr, raiseErr] using hm
      | true => simpa [assertCs, h, pinSet_eq, ha, hr, raiseErr] using hm.append k

theorem assertCs_quiet (s : State) : Quiet s (assertCs s).st := by
  cases h : s.has.cs with
  | false => simpa [assertCs, h] using Quiet.refl s
  | true =>
    cases ha : s.env.answer 0 with
    | ok => simpa [assertCs, h, pinSet_eq, ha, succeed] using pinSet_quiet .cs .low s
    | fail e =>
      cases hr : s.params.csReleaseOnAssertFail with
      | false => simpa [assertCs, h, pinSet_eq, ha, hr, raiseErr] using pinSet_quiet .cs .low s
      | true =>
        simpa [assertCs, h, pinSet_eq, ha, hr, raiseErr] using
          (pinSet_quiet .cs .low s).trans (pinSet_quiet .cs .high _)

/-! ## One transmission -/

/-- What a transmission leaves of the payload, the buffers, the phase and the count: nothing is touched
where the encoder was not reached; where it was, the state is quiet after the encoder's. -/
def XmitLeaves (src : Source) (s : State) (r : Run) : Prop :=
  (Quiet s r.st ∧ (r.err = some .csFailed ∨ r.err = some .dcFailed)) ∨
    (∃ t, Quiet s t ∧ t.params = s.params ∧ Quiet (encodeSource src t).st r.st ∧
      (encodeSource src t).err = r.err)

theorem xmit_spec (kind : Kind) (src : Source) (s : State) :
    (∃ es, Emits s es (xmit kind src s).st ∧ XmitOutcome s kind src es (xmit kind src s).err) ∧
    XmitLeaves src s (xmit kind src s) := by
  unfold xmit
  rcases assertCs_spec s with ⟨h1, h2⟩ | ⟨e, a, hc, h1, h2⟩
  · rw [andThen_of_ok h1]
    have hq := assertCs_quiet s
    generalize (assertCs s).st = t at h2 hq
    have hp : t.params = s.params := h2.params
    have hh : t.has = s.has := h2.has
    unfold insideBracket
    rcases selectDc_spec kind t with ⟨k1, k2⟩ | ⟨e, hd, k1, k2⟩
    · simp only [andThen_of_ok k1]
      have hq2 := hq.trans (selectDc_quiet kind t)
      generalize (selectDc kind t).st = u at k2 hq2
      obtain ⟨ws, e1, e2⟩ := encodeSource_spec src u
      obtain ⟨a, r1⟩ := releaseCs_spec (encodeSource src u).st
      have hq3 := releaseCs_quiet (encodeSource src u).st
      have hup : u.params = s.params := k2.params.trans hp
      rw [e1.has, k2.has, hh] at r1
      rw [hh] at k2
      rw [hup] at e2
      exact ⟨⟨_, h2.append (k2.append (e1.append r1)), .encoded ws _ a e2⟩,
        .inr ⟨u, hq2, hup, hq3, rfl⟩⟩
    · simp only [andThen_of_err k1]
      have hq2 := hq.trans (selectDc_quiet kind t)
      obtain ⟨a, r1⟩ := releaseCs_spec (selectDc kind t).st
      have hq3 := hq2.trans (releaseCs_quiet (selectDc kind t).st)
      rw [k2.has, hh] at r1
      rw [hh] at hd
      exact ⟨⟨_, h2.append (k2.append r1), by rw [k1]; exact .selectFailed e a hd⟩,
        .inl ⟨hq3, .inr k1⟩⟩
  · rw [andThen_of_err h1]
    exact ⟨⟨_, h2, by rw [h1]; exact .assertFailed e a hc⟩, .inl ⟨assertCs_quiet s, .inl h1⟩⟩

@[simp] theorem busCount_ifPresent_pin (b : Bool) (l : Line) (v : Drive) (a : Answer) :
    busCount (ifPresent b (.pin l v a)) = 0 := by cases b <;> rfl

/-- The bytes a transmission puts on the bus are those of its encoder call. -/
theorem xmit_counts (kind : Kind) (src : Source) (s : State) :
    ∃ es, (xmit kind src s).st.trace = s.trace ++ es ∧
      ((Quiet s (xmit kind src s).st ∧ busCount es = 0) ∨
        ∃ t ws, Quiet s t ∧ Quiet (encodeSource src t).st (xmit kind src s).st ∧
          (encodeSource src t).st.trace = t.trace ++ ws ∧ busCount es = busCount ws) := by
  unfold xmit
  rcases assertCs_spec s with ⟨h1, h2⟩ | ⟨e, a, hc, h1, h2⟩
  · rw [andThen_of_ok h1]
    have hq := assertCs_quiet s
    generalize (assertCs s).st = t at h2 hq
    unfold insideBracket
    rcases selectDc_spec kind t with ⟨k1, k2⟩ | ⟨e, hd, k1, k2⟩
    · simp only [andThen_of_ok k1]
      have hq2 := hq.trans (selectDc_quiet kind t)
      generalize (selectDc kind t).st = u at k2 hq2
      obtain ⟨ws, e1, -⟩ := encodeSource_spec src u
      obtain ⟨a, r1⟩ := releaseCs_spec (encodeSource src u).st
      exact ⟨_, (h2.append (k2.append (e1.append r1))).trace,
        .inr ⟨u, ws, hq2, releaseCs_quiet _, e1.trace, by simp [busCount_append]⟩⟩
    · simp only [andThen_of_err k1]
      obtain ⟨a, r1⟩ := releaseCs_spec (selectDc kind t).st
      exact ⟨_, (h2.append (k2.append r1)).trace,
        .inl ⟨(hq.trans (selectDc_quiet kind t)).trans (releaseCs_quiet _),
          by simp only [busCount_append, busCount_ifPresent_pin]; rfl⟩⟩
  · rw [andThen_of_err h1]
    refine ⟨_, h2.trace, .inl ⟨assertCs_quiet s, ?_⟩⟩
    cases s.params.csReleaseOnAssertFail <;> rfl

/-! ## What follows from the shape -/

theorem EncodeOutcome.bus {native : ByteOrder} {src : Source} {es : List Event} {err : Option Err}
    (h : EncodeOutcome native src es err) : ∀ e ∈ es, ∃ bs a, e = .bus bs a := by
  cases h with
  | all => intro e he; obtain ⟨bs, -, rfl⟩ := List.mem_map.1 he; exact ⟨bs, .ok, rfl⟩
  | failed _ done rest bs hs =>
    intro e he
    rcases List.mem_append.1 he with he | he
    · obtain ⟨bs, -, rfl⟩ := List.mem_map.1 he; exact ⟨bs, .ok, rfl⟩
    · exact ⟨bs, .fail, by simpa using he⟩
  | unsupported p => simp

/-- Bus writes leave the latches. -/
theorem latchesAfter_bus {es : List Event} (h : ∀ e ∈ es, ∃ bs a, e = .bus bs a) (l : Latches) :
    latchesAfter l es = l := by
  induction es with
  | nil => rfl
  | cons x xs ih =>
    obtain ⟨bs, a, rfl⟩ := h x (by simp)
    exact ih (fun e he => h e (by simp [he]))

/-- With CS low and DC known, where present, bus writes are allowed. -/
theorem callsAllowed_bus {es : List Event} (h : ∀ e ∈ es, ∃ bs a, e = .bus bs a) (has : Straps)
    (l : Latches) (hd : has.dc = true → l.dc ≠ .unknown) (hc : has.cs = true → l.cs = .low) :
    callsAllowed has l es = true := by
  induction es with
  | nil => rfl
  | cons x xs ih =>
    obtain ⟨bs, a, rfl⟩ := h x (by simp)
    have h2 := ih (fun e he => h e (by simp [he]))
    have : callAllowed has l (.bus bs a) = true := by
      cases h1 : has.dc <;> cases h3 : has.cs <;> simp_all [callAllowed]
    simp [callsAllowed, latchesAfterEvent, this, h2]

theorem clean_map_ok (ws : List (List U8)) : Clean (ws.map (fun b => Event.bus b .ok)) := by
  intro e he; obtain ⟨bs, -, rfl⟩ := List.mem_map.1 he; rfl

theorem clean_ifPresent {b : Bool} {e : Event} (h : e.isReportedFailure = false) :
    Clean (ifPresent b e) := by
  cases b <;> simp [ifPresent, Clean, h]

theorem csRelease_clean (b : Bool) (a : Answer) : Clean (ifPresent b (.pin .cs .high a)) :=
  clean_ifPresent (by cases a <;> rfl)

/-- The errors of a transmission that no call causes. -/
def OwnError (src : Source) (k : Err) : Prop := k = .formatNotImplemented ∧ ∃ p, src = .unsupported p

theorem EncodeOutcome.ends {s : State} {src : Source} {ws : List Event} {err : Option Err}
    (h : EncodeOutcome s.params.nativeOrder src ws err) (a : Answer) :
    EndsAt (Follows s) (OwnError src) (ws ++ ifPresent s.has.cs (.pin .cs .high a)) err := by
  cases h with
  | all _ h => exact clean_append.2 ⟨clean_map_ok _, csRelease_clean _ _⟩
  | failed _ done rest bs hs =>
    refine .inl ⟨done.map (fun b => .bus b .ok), .bus bs .fail,
      ifPresent s.has.cs (.pin .cs .high a), by simp, clean_map_ok _, rfl, rfl, ?_⟩
    cases hc : s.has.cs <;> simp [Follows, deassertionFollows, hc, ifPresent]
  | unsupported p => exact .inr ⟨⟨rfl, p, rfl⟩, by simpa using csRelease_clean _ _⟩

theorem XmitOutcome.ends {s : State} {kind : Kind} {src : Source} {es : List Event}
    {err : Option Err} (h : XmitOutcome s kind src es err) :
    EndsAt (Follows s) (OwnError src) es err := by
  cases h with
  | assertFailed e a hc =>
    refine .inl ⟨[], _, _, rfl, clean_nil, rfl, rfl, ?_⟩
    cases hr : s.params.csReleaseOnAssertFail <;> simp [Follows, deassertionFollows, hr]
  | selectFailed e a hd =>
    refine .inl ⟨ifPresent s.has.cs (.pin .cs .low .ok), .pin .dc kind.dcLevel (.fail e),
      ifPresent s.has.cs (.pin .cs .high a), by simp, clean_ifPresent rfl, rfl, rfl, ?_⟩
    cases hc : s.has.cs <;> simp [Follows, deassertionFollows, hc, ifPresent]
  | encoded ws err a h =>
    exact endsAt_clean_append (clean_ifPresent rfl)
      (endsAt_clean_append (clean_ifPresent rfl) (h.ends a))

/-- The events a transmission can make. -/
def IsXmitEvent : Event → Prop
  | .pin .cs _ _ => True
  | .pin .dc _ _ => True
  | .bus _ _ => True
  | .pin .rst _ _ => False
  | .pin .bl _ _ => False
  | .delay _ => False

theorem XmitOutcome.events {s : State} {kind : Kind} {src : Source} {es : List Event}
    {err : Option Err} (h : XmitOutcome s kind src es err) : ∀ e ∈ es, IsXmitEvent e := by
  have hi : ∀ (b : Bool) (e : Event), IsXmitEvent e → ∀ x ∈ ifPresent b e, IsXmitEvent x := by
    intro b e he x hx; cases b <;> simp [ifPresent] at hx; rw [hx]; exact he
  cases h with
  | assertFailed e a hc =>
    cases hr : s.params.csReleaseOnAssertFail <;> simp [IsXmitEvent]
  | selectFailed e a hd =>
    intro x hx
    simp only [List.mem_append, List.mem_singleton] at hx
    rcases hx with hx | rfl | hx
    · exact hi _ _ (by exact trivial) x hx
    · trivial
    · exact hi _ _ (by exact trivial) x hx
  | encoded ws err a h =>
    intro x hx
    simp only [List.mem_append] at hx
    rcases hx with hx | hx | hx | hx
    · exact hi _ _ (by exact trivial) x hx
    · exact hi _ _ (by exact trivial) x hx
    · obtain ⟨bs, b, rfl⟩ := h.bus x hx; trivial
    · exact hi _ _ (by exact trivial) x hx

theorem XmitOutcome.allowed {s : State} {kind : Kind} {src : Source} {es : List Event}
    {err : Option Err} (h : XmitOutcome s kind src es err) :
    callsAllowed s.has s.lvl es = true ∧ (s.lvl.cs ≠ .low → (latchesAfter s.lvl es).cs ≠ .low) := by
  cases h with
  | assertFailed e a hc =>
    cases hr : s.params.csReleaseOnAssertFail <;> cases a <;>
      simp [callsAllowed, callAllowed, hc, Straps.get, latchesAfterEvent, latchAfter, Latches.set,
        Drive.level]
  | selectFailed e a hd =>
    cases hc : s.has.cs <;> cases a <;>
      simp [callsAllowed, callAllowed, hc, hd, Straps.get, latchesAfterEvent, latchAfter,
        Latches.set, Drive.level, ifPresent]
  | encoded ws err a h =>
    cases hd : s.has.dc <;> cases hc : s.has.cs <;> cases a <;> cases kind <;>
      simp [callsAllowed, callsAllowed_append, callAllowed, hc, hd, Straps.get, latchesAfterEvent,
        latchAfter, Latches.set, Drive.level, ifPresent, latchesAfter_bus h.bus,
        callsAllowed_bus h.bus, Kind.dcLevel]

/-- A transmission, as a run: what it does and how it can end. -/
theorem xmit_does (kind : Kind) (src : Source) (s : State) :
    Does IsXmitEvent (OwnError src) s (xmit kind src s) := by
  obtain ⟨⟨es, h1, h2⟩, -⟩ := xmit_spec kind src s
  exact ⟨es, h1, h2.ends, h2.events, h2.allowed⟩

theorem ownError_u8 {p : List U8} {k : Err} (h : OwnError (.u8 p) k) : False := by
  obtain ⟨-, q, h⟩ := h; cases h

theorem ownError_u16beIter {p : List U16} {k : Err} (h : OwnError (.u16beIter p) k) : False := by
  obtain ⟨-, q, h⟩ := h; cases h

/-- Byte-slice transmissions (all commands, and all data but that of XMIT_DATA and SET_PIXELS): no
error of their own, and quiet. -/
theorem xmitU8_does (kind : Kind) (p : List U8) (s : State) :
    Does IsXmitEvent (fun _ => False) s (xmit kind (.u8 p) s) :=
  (xmit_does kind (.u8 p) s).mono (fun _ h => h) (fun _ h => ownError_u8 h)

theorem xmitU8_quiet (kind : Kind) (p : List U8) (s : State) :
    Quiet s (xmit kind (.u8 p) s).st := by
  obtain ⟨-, ⟨h, -⟩ | ⟨t, h1, -, h2, -⟩⟩ := xmit_spec kind (.u8 p) s
  · exact h
  · exact (h1.trans (encodeU8_quiet p t)).trans h2

theorem xmit_phase (kind : Kind) (src : Source) (s : State) :
    (xmit kind src s).st.phase = s.phase := by
  have hg8 : ∀ (p : List U8) (t : State), (encodeSource (.u8Iter p) t).st.phase = t.phase :=
    fun p t => (gather8_leaves p (t.setBuf8 []) (by simp)).2.2.2.1
  have hg16 : ∀ f (p : List U16) (t : State),
      (gather16 f p (t.setBuf16 [])).st.phase = t.phase :=
    fun f p t => (gather16_leaves f p (t.setBuf16 []) (by simp)).2.2.2.1
  obtain ⟨-, ⟨h, -⟩ | ⟨t, h1, -, h2, -⟩⟩ := xmit_spec kind src s
  · exact h.phase
  · rw [h2.phase, ← h1.phase]
    cases src with
    | u8 p => exact (encodeU8_quiet p t).phase
    | u16 p => simp [encodeSource, encodeU16, busWriteOr_eq, busWrite_eq]
    | u16be p =>
      simp only [encodeSource, encodeU16BE, busWriteOr_eq, busWrite_eq]; rw [convertInPlace_frame]
    | u16le p =>
      simp only [encodeSource, encodeU16LE, busWriteOr_eq, busWrite_eq]; rw [convertInPlace_frame]
    | u8Iter p => exact hg8 p t
    | u16beIter p => exact hg16 be16 p t
    | u16leIter p => exact hg16 le16 p t
    | unsupported p => rfl

/-! ## Successful transmissions -/

theorem latchesAfter_bracket (s : State) (kind : Kind) (writes : List (List U8)) (l : Latches) :
    latchesAfter l (bracketTrace s.has kind writes) = latchesAfterXmit s.has kind l := by
  have hb : ∀ l, latchesAfter l (writes.map (fun bs => Event.bus bs .ok)) = l :=
    latchesAfter_bus (fun e he => by obtain ⟨bs, -, rfl⟩ := List.mem_map.1 he; exact ⟨bs, .ok, rfl⟩)
  cases hd : s.has.dc <;> cases hc : s.has.cs <;>
    simp [bracketTrace, ifPresent, hc, hd, latchesAfterXmit, hb, latchesAfterEvent, latchAfter,
      Latches.set, Drive.level]

/-- With every answer `ok`, a transmission makes the trace of R95. -/
theorem xmit_ok (kind : Kind) (src : Source) (s : State) (h : AnswersOk s) :
    Emits s (bracketTrace s.has kind (expectedWrites s.params.nativeOrder src))
      (xmit kind src s).st ∧
    Run.response (xmit kind src s) = dataResponse src := by
  obtain ⟨⟨es, h1, h2⟩, -⟩ := xmit_spec kind src s
  have hn := envOk_no_failure h h1.env
  generalize (xmit kind src s).st = t at *
  have hr : Run.response (xmit kind src s) =
      match (xmit kind src s).err with | none => .ok | some k => .err k := rfl
  rw [hr]
  generalize (xmit kind src s).err = err at *
  cases h2 with
  | assertFailed e a hc => exact absurd (hn (.pin .cs .low (.fail e)) (by simp)) (by simp [Event.failed])
  | selectFailed e a hd =>
    exact absurd (hn (.pin .dc kind.dcLevel (.fail e)) (by simp)) (by simp [Event.failed])
  | encoded ws err a he =>
    have hl : ifPresent s.has.cs (.pin .cs .high a) = ifPresent s.has.cs (.pin .cs .high .ok) := by
      cases hc : s.has.cs with
      | false => rfl
      | true =>
        have := hn (.pin .cs .high a) (by simp [hc, ifPresent])
        cases a with
        | ok => rfl
        | fail e => simp [Event.failed] at this
    rw [hl] at h1
    cases he with
    | all _ h3 =>
      refine ⟨by simpa [bracketTrace] using h1, ?_⟩
      cases src <;> first | rfl | exact absurd rfl (h3 _)
    | failed _ done rest bs h3 =>
      exact absurd (hn (.bus bs .fail) (by simp)) (by simp [Event.failed])
    | unsupported p => exact ⟨by simpa [bracketTrace, expectedWrites] using h1, rfl⟩

theorem response_ok_iff (r : Run) : r.response = .ok ↔ r.err = none := by
  unfold Run.response; cases r.err <;> simp

/-- A successful byte-slice transmission. -/
theorem xmitU8_ok (kind : Kind) (p : List U8) (s : State) (h : AnswersOk s) :
    Emits s (bracketTrace s.has kind [p]) (xmit kind (.u8 p) s).st ∧
    (xmit kind (.u8 p) s).err = none ∧ Quiet s (xmit kind (.u8 p) s).st := by
  obtain ⟨h1, h2⟩ := xmit_ok kind (.u8 p) s h
  exact ⟨h1, (response_ok_iff _).1 h2, xmitU8_quiet kind p s⟩

theorem Emits.answersOk {s t : State} {es : List Event} (h : Emits s es t) (hs : AnswersOk s) :
    AnswersOk t := envOk_answeredBy hs h.env

end Sys2Proof.Machine
end

