-- ==== Sys2Proof/Laws/Requests.lean ====
section
/-! SUPPORT. What the operations above the sequencer can do: the address window, the pixel shape, the
lines driven outside transmissions, and the four transitions of INIT. Each has one lemma for every
environment (`…_does`, `…_quiet`) and one for an environment that always answers `ok` (`…_ok`). -/

namespace Sys2Proof.Machine

/-! ## Composition -/

/-- The run succeeded with exactly these calls and touched nothing else. -/
structure OkRun (s : State) (es : List Event) (r : Run) : Prop where
  emits : Emits s es r.st
  err : r.err = none
  quiet : Quiet s r.st

theorem OkRun.andThen {s : State} {r : Run} {f : State → Run} {xs ys : List Event}
    (h : OkRun s xs r) (k : ∀ t, Emits s xs t → OkRun t ys (f t)) :
    OkRun s (xs ++ ys) (r.andThen f) := by
  rw [andThen_of_ok h.err]
  have := k _ h.emits
  exact ⟨h.emits.append this.emits, this.err, h.quiet.trans this.quiet⟩

theorem Quiet.andThen {s : State} {r : Run} {f : State → Run} (h : Quiet s r.st)
    (k : ∀ t, Quiet t (f t).st) : Quiet s (r.andThen f).st := by
  cases hr : r.err with
  | none => rw [andThen_of_ok hr]; exact h.trans (k _)
  | some e => rw [andThen_of_err hr]; exact h

theorem Does.after_silent {P : Event → Prop} {X : Err → Prop} {s t : State} {r : Run}
    (h : Emits s [] t) (k : Does P X t r) : Does P X s r := by
  obtain ⟨es, h1, h2, h3, h4, h5⟩ := k
  rw [Follows.of_same h.has h.params] at h2
  rw [h.has, h.lvl] at h4
  rw [h.lvl] at h5
  exact ⟨es, by simpa using h.append h1, h2, h3, h4, h5⟩

theorem Does.then_silent {P : Event → Prop} {X : Err → Prop} {s t : State} {r : Run}
    (k : Does P X s r) (h : Emits r.st [] t) : Does P X s { r with st := t } := by
  obtain ⟨es, h1, h2, h3, h4, h5⟩ := k
  exact ⟨es, by simpa using h1.append h, h2, h3, h4, h5⟩

theorem setPhase_emits (s : State) (p : Phase) : Emits s [] (s.setPhase p) :=
  ⟨by simp, rfl, rfl, rfl⟩

theorem lend_emits (s : State) (p : Payload) : Emits s [] (s.lend p) := ⟨by simp, rfl, rfl, rfl⟩

theorem delayUs_does {P : Event → Prop} {X : Err → Prop} (n : U32) (s : State) (h : P (.delay n)) :
    Does P X s (succeed (delayUs n s)) :=
  ⟨[.delay n], delayUs_emits n s, clean_single.2 rfl, by simpa using h, rfl, id⟩

theorem delayUs_ok (n : U32) (s : State) : OkRun s [.delay n] (succeed (delayUs n s)) :=
  ⟨delayUs_emits n s, rfl, delayUs_quiet n s⟩

/-! ## Addressing -/

/-- No error but those of failed calls. -/
def NoOwnError (_ : Err) : Prop := False

theorem xmitCommand_does (c : Command) (s : State) :
    Does IsXmitEvent NoOwnError s (xmitCommand c s) := xmitU8_does _ _ s

theorem xmitCommand_quiet (c : Command) (s : State) : Quiet s (xmitCommand c s).st :=
  xmitU8_quiet _ _ s

theorem xmitCommand_ok (c : Command) (s : State) (h : AnswersOk s) :
    OkRun s (commandTrace s c) (xmitCommand c s) :=
  let ⟨a, b, q⟩ := xmitU8_ok .cmd [s.params.opc.get c] s h
  ⟨a, b, q⟩

theorem xmitData_u8_does (p : List U8) (s : State) :
    Does IsXmitEvent NoOwnError s (xmitData (.u8 p) s) := xmitU8_does _ _ s

theorem xmitData_u8_quiet (p : List U8) (s : State) : Quiet s (xmitData (.u8 p) s).st :=
  xmitU8_quiet _ _ s

theorem xmitData_u8_ok (p : List U8) (s : State) (h : AnswersOk s) :
    OkRun s (dataTrace s (.u8 p)) (xmitData (.u8 p) s) :=
  let ⟨a, b, q⟩ := xmitU8_ok .data p s h
  ⟨a, b, q⟩

/-- A trace is written from the straps and the parameters, which no call changes. -/
theorem commandTrace_of_emits {s t : State} {es : List Event} (h : Emits s es t) (c : Command) :
    commandTrace t c = commandTrace s c := by simp [commandTrace, h.has, h.params]

theorem dataTrace_of_emits {s t : State} {es : List Event} (h : Emits s es t) (src : Source) :
    dataTrace t src = dataTrace s src := by simp [dataTrace, h.has, h.params]

theorem wordTrace_of_emits {s t : State} {es : List Event} (h : Emits s es t) (v : U16) :
    wordTrace t v = wordTrace s v := dataTrace_of_emits h _

/-- A sum that fits is the 16-bit sum. -/
theorem narrow16_physical (c off : U16) : narrow16 (physical c off) = c + off := by
  apply BitVec.eq_of_toNat_eq; simp [narrow16, physical, BitVec.toNat_add]

theorem fits16_iff (n : Nat) : fits16 n = true ↔ n < 65536 := by
  unfold fits16
  exact decide_eq_true_iff

theorem not_fits16_iff (n : Nat) : fits16 n = false ↔ 65536 ≤ n := by
  rw [← Bool.not_eq_true, fits16_iff, Nat.not_lt]

/-- The end of a blit window with a positive extent, where it fits, is the 16-bit expression. -/
theorem narrow16_blitEnd {start extent : U16} (h : extent ≠ 0) :
    narrow16 (blitEnd start extent) = start + extent - 1 := by
  have : extent.toNat ≠ 0 := fun h0 => h (BitVec.eq_of_toNat_eq (by simpa using h0))
  have h1 := start.isLt
  have h2 := extent.isLt
  apply BitVec.eq_of_toNat_eq
  simp [narrow16, blitEnd, BitVec.toNat_add, BitVec.toNat_sub]
  omega

/-- The window test is the rule's (R123, D20). -/
theorem windowFits_iff (sx sy ex ey : U16) (s : State) :
    windowFits sx sy ex ey s = true ↔ ¬ WindowOverflows s sx sy ex ey := by
  unfold windowFits
  simp only [Bool.and_eq_true, fits16_iff, physical, WindowOverflows]
  omega

theorem ifWindowFits_of_fits {sx sy ex ey : U16} {s : State} (h : ¬ WindowOverflows s sx sy ex ey)
    (o : Host.Outcome State Fault Refusal) : ifWindowFits sx sy ex ey s o = o := by
  unfold ifWindowFits
  rw [(windowFits_iff _ _ _ _ _).2 h]

theorem ifWindowFits_of_overflow {sx sy ex ey : U16} {s : State}
    (h : WindowOverflows s sx sy ex ey) (o : Host.Outcome State Fault Refusal) :
    ifWindowFits sx sy ex ey s o = .refused .coordinateOverflow := by
  unfold ifWindowFits
  cases hw : windowFits sx sy ex ey s with
  | true => exact absurd h ((windowFits_iff _ _ _ _ _).1 hw)
  | false => rfl

theorem sendWindow_does (sx sy ex ey : U16) (s : State) :
    Does IsXmitEvent NoOwnError s (sendWindow sx sy ex ey s) := by
  unfold sendWindow xmitCoordinate
  exact (((((xmitCommand_does .caset s).andThen fun t _ _ => xmitData_u8_does _ t).andThen
    fun t _ _ => xmitData_u8_does _ t).andThen fun t _ _ => xmitCommand_does .raset t).andThen
    fun t _ _ => xmitData_u8_does _ t).andThen fun t _ _ => xmitData_u8_does _ t

theorem sendWindow_quiet (sx sy ex ey : U16) (s : State) :
    Quiet s (sendWindow sx sy ex ey s).st := by
  unfold sendWindow xmitCoordinate
  exact (((((xmitCommand_quiet .caset s).andThen fun t => xmitData_u8_quiet _ t).andThen
    fun t => xmitData_u8_quiet _ t).andThen fun t => xmitCommand_quiet .raset t).andThen
    fun t => xmitData_u8_quiet _ t).andThen fun t => xmitData_u8_quiet _ t

theorem sendWindow_ok (sx sy ex ey : U16) (s : State) (h : AnswersOk s) :
    OkRun s (windowTrace s sx sy ex ey) (sendWindow sx sy ex ey s) := by
  unfold sendWindow xmitCoordinate windowTrace
  rw [narrow16_physical, narrow16_physical, narrow16_physical, narrow16_physical]
  have w : ∀ (v : U16) (t : State) (es : List Event), Emits s es t →
      OkRun t (wordTrace s v) (xmitData (.u8 (be16 v)) t) := by
    intro v t es k
    rw [← wordTrace_of_emits k]
    exact xmitData_u8_ok _ t (k.answersOk h)
  refine (((((xmitCommand_ok .caset s h).andThen fun t k => w _ t _ k).andThen
    fun t k => w _ t _ k).andThen fun t k => ?_).andThen
    fun t k => w _ t _ k).andThen fun t k => w _ t _ k
  rw [← commandTrace_of_emits k]
  exact xmitCommand_ok .raset t (k.answersOk h)

theorem sendPixels_does (sx sy ex ey : U16) (src : Source) (s : State) :
    Does IsXmitEvent (OwnError src) s (sendPixels sx sy ex ey src s) := by
  unfold sendPixels xmitData
  have w : ∀ {t : State} {r : Run}, Does IsXmitEvent NoOwnError t r →
      Does IsXmitEvent (OwnError src) t r := fun h => h.mono (fun _ h => h) (fun _ h => h.elim)
  exact ((w (sendWindow_does sx sy ex ey s)).andThen fun t _ _ => w (xmitCommand_does .ramwr t)).andThen
    fun t _ _ => xmit_does .data src t

/-- Before its data transmission a pixel request leaves the payload and the buffers alone. -/
theorem sendPixels_cases (sx sy ex ey : U16) (src : Source) (s : State) :
    (∃ k, (sendPixels sx sy ex ey src s).err = some k ∧
      Quiet s (sendPixels sx sy ex ey src s).st) ∨
    (∃ t es, Emits s es t ∧ Quiet s t ∧ sendPixels sx sy ex ey src s = xmit .data src t) := by
  unfold sendPixels xmitData
  have hq := (sendWindow_quiet sx sy ex ey s).andThen (f := xmitCommand .ramwr)
    (fun t => xmitCommand_quiet .ramwr t)
  have hd := (sendWindow_does sx sy ex ey s).andThen (f := xmitCommand .ramwr)
    (fun t _ _ => xmitCommand_does .ramwr t)
  cases hr : ((sendWindow sx sy ex ey s).andThen (xmitCommand .ramwr)).err with
  | some k => exact .inl ⟨k, by rw [andThen_of_err hr]; exact hr, by rw [andThen_of_err hr]; exact hq⟩
  | none =>
    obtain ⟨es, h1, -⟩ := hd
    exact .inr ⟨_, es, h1, hq, by rw [andThen_of_ok hr]⟩

/-- The window and the memory-write command of a pixel request, all answers `ok`. -/
theorem sendPixels_ok (sx sy ex ey : U16) (src : Source) (s : State) (h : AnswersOk s) :
    ∃ t, Emits s (windowTrace s sx sy ex ey ++ commandTrace s .ramwr) t ∧ Quiet s t ∧
      sendPixels sx sy ex ey src s = xmit .data src t := by
  unfold sendPixels xmitData
  have := (sendWindow_ok sx sy ex ey s h).andThen (f := xmitCommand .ramwr)
    (ys := commandTrace s .ramwr) (fun t k => by
      rw [← commandTrace_of_emits k]; exact xmitCommand_ok .ramwr t (k.answersOk h))
  exact ⟨_, this.emits, this.quiet, by rw [andThen_of_ok this.err]⟩

/-! ## Lines driven outside transmissions -/

/-- A drive of RST or BL, or a delay. -/
def IsPowerEvent : Event → Prop
  | .pin .rst _ _ => True
  | .pin .bl _ _ => True
  | .delay _ => True
  | .pin .dc _ _ => False
  | .pin .cs _ _ => False
  | .bus _ _ => False

theorem drivePin_does {P : Event → Prop} (l : Line) (v : Drive) (s : State)
    (hl : l = .rst ∨ l = .bl) (hh : s.has.get l = true) (hP : ∀ a, P (.pin l v a)) :
    Does P NoOwnError s (drivePin l v s) := by
  refine ⟨[.pin l v (s.env.answer 0)],
    by simpa [drivePin, pinSetOr_eq] using pinSet_emits l v s, ?_, by simpa using hP _,
    by simp [callsAllowed, callAllowed, hh], ?_⟩
  · cases ha : s.env.answer 0 with
    | ok => simp [drivePin, pinSetOr_eq, ha, EndsAt, Clean, Event.isReportedFailure, Event.failed]
    | fail e =>
      simp only [drivePin, pinSetOr_eq, ha]
      refine .inl ⟨[], .pin l v (.fail e), [], rfl, clean_nil, ?_, ?_, ?_⟩ <;>
        rcases hl with rfl | rfl <;>
        simp [Event.isReportedFailure, Event.failed, Event.isCsRelease, Event.errKind, Follows,
          deassertionFollows]
  · rcases hl with rfl | rfl <;> simp [latchesAfterEvent, Latches.set]

theorem drivePin_quiet (l : Line) (v : Drive) (s : State) : Quiet s (drivePin l v s).st := by
  simpa [drivePin, pinSetOr_eq] using pinSet_quiet l v s

theorem drivePin_ok (l : Line) (v : Drive) (s : State) (h : AnswersOk s) :
    OkRun s [driveOk l v] (drivePin l v s) := by
  have hm := pinSet_emits l v s
  rw [answersOk_zero h] at hm
  exact ⟨by simpa [drivePin, pinSetOr_eq, driveOk] using hm, by simp [drivePin, pinSetOr_eq, answersOk_zero h],
    drivePin_quiet l v s⟩

theorem drivePinThenWait_does {P : Event → Prop} (l : Line) (v : Drive) (n : U32) (s : State)
    (hl : l = .rst ∨ l = .bl) (hh : s.has.get l = true) (hP : ∀ a, P (.pin l v a))
    (hd : P (.delay n)) : Does P NoOwnError s (drivePinThenWait l v n s) :=
  (drivePin_does l v s hl hh hP).andThen fun t _ _ => delayUs_does n t hd

theorem drivePinThenWait_quiet (l : Line) (v : Drive) (n : U32) (s : State) :
    Quiet s (drivePinThenWait l v n s).st :=
  (drivePin_quiet l v s).andThen fun t => delayUs_quiet n t

theorem drivePinThenWait_ok (l : Line) (v : Drive) (n : U32) (s : State) (h : AnswersOk s) :
    OkRun s [driveOk l v, .delay n] (drivePinThenWait l v n s) :=
  (drivePin_ok l v s h).andThen (ys := [.delay n]) fun t _ => delayUs_ok n t

/-! ## The four transitions of INIT -/

theorem hardReset_does {P : Event → Prop} (s : State) (hP : ∀ v a, P (.pin .rst v a))
    (hd : ∀ n, P (.delay n)) : Does P NoOwnError s (hardReset s) := by
  cases h : s.has.rst with
  | false => simpa [hardReset, h] using does_silent (Emits.nil s)
  | true =>
    have hg : ∀ {t : State} {es : List Event}, Emits s es t → t.has.get .rst = true := by
      intro t es k; rw [k.has]; exact h
    simp only [hardReset, h]
    exact ((drivePinThenWait_does .rst .high _ s (.inl rfl) h (hP _) (hd _)).andThen
      fun t _ k => drivePinThenWait_does .rst .low _ t (.inl rfl) (hg k) (hP _) (hd _)).andThen
      fun t _ k => drivePinThenWait_does .rst .high _ t (.inl rfl) (hg k) (hP _) (hd _)

theorem hardReset_quiet (s : State) : Quiet s (hardReset s).st := by
  cases h : s.has.rst with
  | false => simpa [hardReset, h] using Quiet.refl s
  | true =>
    simp only [hardReset, h]
    exact ((drivePinThenWait_quiet .rst .high _ s).andThen
      fun t => drivePinThenWait_quiet .rst .low _ t).andThen
      fun t => drivePinThenWait_quiet .rst .high _ t

/-- The trace of a successful hard reset (R101). -/
def hardResetTrace (s : State) : List Event :=
  if s.has.rst then
    [driveOk .rst .high, .delay s.params.tRstUs, driveOk .rst .low, .delay s.params.tRstUs,
      driveOk .rst .high, .delay s.params.tRstUs] else []

theorem hardReset_ok (s : State) (h : AnswersOk s) :
    OkRun s (hardResetTrace s) (hardReset s) := by
  cases hr : s.has.rst with
  | false => simpa [hardReset, hr, hardResetTrace] using OkRun.mk (Emits.nil s) rfl (Quiet.refl s)
  | true =>
    have := ((drivePinThenWait_ok .rst .high s.params.tRstUs s h).andThen
      (f := drivePinThenWait .rst .low s.params.tRstUs)
      fun t k => drivePinThenWait_ok .rst .low _ t (k.answersOk h)).andThen
      (f := drivePinThenWait .rst .high s.params.tRstUs)
      fun t k => drivePinThenWait_ok .rst .high _ t (k.answersOk h)
    simpa [hardReset, hr, hardResetTrace] using this

theorem backlightEngage_does {P : Event → Prop} (s : State) (hP : ∀ v a, P (.pin .bl v a))
    (hd : ∀ n, P (.delay n)) : Does P NoOwnError s (backlightEngage s) := by
  cases h : s.has.bl with
  | false => simpa [backlightEngage, h] using does_silent (Emits.nil s)
  | true =>
    simp only [backlightEngage, h]
    exact (drivePinThenWait_does .bl .low _ s (.inr rfl) h (hP _) (hd _)).andThen
      fun t _ k => drivePin_does .bl .high t (.inr rfl) (by rw [k.has]; exact h) (hP _)

theorem backlightEngage_quiet (s : State) : Quiet s (backlightEngage s).st := by
  cases h : s.has.bl with
  | false => simpa [backlightEngage, h] using Quiet.refl s
  | true =>
    simp only [backlightEngage, h]
    exact (drivePinThenWait_quiet .bl .low _ s).andThen fun t => drivePin_quiet .bl .high t

/-- The trace of a successful backlight engagement (R102). -/
def backlightTrace (s : State) : List Event :=
  if s.has.bl then [driveOk .bl .low, .delay s.params.tBlUs, driveOk .bl .high] else []

theorem backlightEngage_ok (s : State) (h : AnswersOk s) :
    OkRun s (backlightTrace s) (backlightEngage s) := by
  cases hr : s.has.bl with
  | false => simpa [backlightEngage, hr, backlightTrace] using OkRun.mk (Emits.nil s) rfl (Quiet.refl s)
  | true =>
    have := (drivePinThenWait_ok .bl .low s.params.tBlUs s h).andThen (f := drivePin .bl .high)
      fun t k => drivePin_ok .bl .high t (k.answersOk h)
    simpa [backlightEngage, hr, backlightTrace] using this

/-- An event of INIT: anything. -/
def AnyEvent (_ : Event) : Prop := True

theorem xmitU8_doesAny (kind : Kind) (p : List U8) (s : State) :
    Does AnyEvent NoOwnError s (xmit kind (.u8 p) s) :=
  (xmitU8_does kind p s).mono (fun _ _ => trivial) (fun _ h => h)

theorem playStep_does (r : RegStep) (s : State) : Does AnyEvent NoOwnError s (playStep r s) := by
  unfold playStep xmitCmd
  refine ((xmitU8_doesAny .cmd [r.cmd] s).andThen fun t _ _ => ?_).andThen
    fun t _ _ => delayUs_does _ t trivial
  cases r.data with
  | nil => exact does_silent (Emits.nil t)
  | cons d ds => exact xmitU8_doesAny .data _ t

theorem playStep_quiet (r : RegStep) (s : State) : Quiet s (playStep r s).st := by
  unfold playStep xmitCmd
  refine ((xmitU8_quiet .cmd [r.cmd] s).andThen fun t => ?_).andThen fun t => delayUs_quiet _ t
  cases r.data with
  | nil => exact Quiet.refl t
  | cons d ds => exact xmitU8_quiet .data _ t

theorem stepTrace_of_emits {s t : State} {es : List Event} (h : Emits s es t) (r : RegStep) :
    stepTrace t r = stepTrace s r := by
  simp [stepTrace, h.has, dataTrace_of_emits h]

theorem playStep_ok (r : RegStep) (s : State) (h : AnswersOk s) :
    OkRun s (stepTrace s r) (playStep r s) := by
  unfold playStep xmitCmd stepTrace
  have hc : OkRun s (bracketTrace s.has .cmd [[r.cmd]]) (xmit .cmd (.u8 [r.cmd]) s) :=
    let ⟨a, b, q⟩ := xmitU8_ok .cmd [r.cmd] s h
    ⟨a, b, q⟩
  refine (hc.andThen fun t k => ?_).andThen fun t _ => delayUs_ok _ t
  cases hd : r.data with
  | nil => exact OkRun.mk (by simpa [sendStepData] using Emits.nil t) rfl (Quiet.refl t)
  | cons d ds =>
    simp only [reduceCtorEq, ↓reduceIte]
    rw [← dataTrace_of_emits k]
    exact xmitData_u8_ok _ t (k.answersOk h)

theorem playSteps_does (rs : List RegStep) (s : State) :
    Does AnyEvent NoOwnError s (playSteps rs s) := by
  induction rs generalizing s with
  | nil => exact does_silent (Emits.nil s)
  | cons r rs ih => exact (playStep_does r s).andThen fun t _ _ => ih t

theorem playSteps_quiet (rs : List RegStep) (s : State) : Quiet s (playSteps rs s).st := by
  induction rs generalizing s with
  | nil => exact Quiet.refl s
  | cons r rs ih => exact (playStep_quiet r s).andThen fun t => ih t

theorem playSteps_ok (rs : List RegStep) (s : State) (h : AnswersOk s) :
    OkRun s (rs.flatMap (stepTrace s)) (playSteps rs s) := by
  induction rs generalizing s with
  | nil => exact ⟨Emits.nil s, rfl, Quiet.refl s⟩
  | cons r rs ih =>
    rw [List.flatMap_cons]
    refine (playStep_ok r s h).andThen fun t k => ?_
    have : stepTrace t = stepTrace s := funext (stepTrace_of_emits k)
    rw [← this]
    exact ih t (k.answersOk h)

theorem xmitCommandThenWait_does (c : Command) (n : U32) (s : State) :
    Does AnyEvent NoOwnError s (xmitCommandThenWait c n s) :=
  (xmitU8_doesAny _ _ s).andThen fun t _ _ => delayUs_does n t trivial

theorem xmitCommandThenWait_quiet (c : Command) (n : U32) (s : State) :
    Quiet s (xmitCommandThenWait c n s).st :=
  (xmitCommand_quiet c s).andThen fun t => delayUs_quiet n t

theorem xmitCommandThenWait_ok (c : Command) (n : U32) (s : State) (h : AnswersOk s) :
    OkRun s (commandTrace s c ++ [.delay n]) (xmitCommandThenWait c n s) :=
  (xmitCommand_ok c s h).andThen fun t _ => delayUs_ok n t

theorem displayOn_does (s : State) : Does AnyEvent NoOwnError s (displayOn s) := by
  unfold displayOn
  exact ((xmitCommandThenWait_does _ _ s).andThen fun t _ _ => xmitCommandThenWait_does _ _ t).andThen
    fun t _ _ => xmitCommandThenWait_does _ _ t

theorem displayOn_quiet (s : State) : Quiet s (displayOn s).st := by
  unfold displayOn
  exact ((xmitCommandThenWait_quiet _ _ s).andThen fun t => xmitCommandThenWait_quiet _ _ t).andThen
    fun t => xmitCommandThenWait_quiet _ _ t

/-- The trace of a successful display-on (R104). -/
def displayOnTrace (s : State) : List Event :=
  (commandTrace s .invon ++ [.delay s.params.tOn0Us]) ++
  (commandTrace s .slpout ++ [.delay s.params.tOn1Us]) ++
  (commandTrace s .dispon ++ [.delay s.params.tOn2Us])

theorem displayOn_ok (s : State) (h : AnswersOk s) : OkRun s (displayOnTrace s) (displayOn s) := by
  unfold displayOn displayOnTrace
  have w : ∀ (c : Command) (n : U32) (t : State) (es : List Event), Emits s es t →
      OkRun t (commandTrace s c ++ [.delay n]) (xmitCommandThenWait c n t) := by
    intro c n t es k
    rw [← commandTrace_of_emits k]
    exact xmitCommandThenWait_ok c n t (k.answersOk h)
  exact ((w _ _ s _ (Emits.nil s)).andThen fun t k => w _ _ t _ k).andThen fun t k => w _ _ t _ k

theorem initSequence_does (s : State) : Does AnyEvent NoOwnError s (initSequence s) := by
  unfold initSequence
  exact ((((hardReset_does _ (fun _ _ => trivial) (fun _ => trivial)).after_silent
      (setPhase_emits s .unpowered) |>.andThen
    fun t _ _ => (backlightEngage_does _ (fun _ _ => trivial) (fun _ => trivial)).after_silent
      (setPhase_emits t .reset)).andThen
    fun t _ _ => playSteps_does _ t).andThen
    fun t _ _ => (displayOn_does _).after_silent (setPhase_emits t .registerProgrammed)).andThen
    fun t _ _ => does_silent (setPhase_emits t .displayOn)

theorem unpoweredOnError_does {P : Event → Prop} {X : Err → Prop} {s : State} {r : Run}
    (h : Does P X s r) : Does P X s (unpoweredOnError r) := by
  unfold unpoweredOnError
  cases hr : r.err with
  | none => exact h
  | some k => simpa [hr] using h.then_silent (setPhase_emits r.st .unpowered)

/-- INIT touches nothing but the calls' effects and the phase. -/
structure QuietButPhase (s t : State) : Prop where
  payload : t.payload = s.payload
  consumed : t.consumed = s.consumed
  buf8 : t.buf8 = s.buf8
  buf16 : t.buf16 = s.buf16

theorem Quiet.butPhase {s t : State} (h : Quiet s t) : QuietButPhase s t :=
  ⟨h.payload, h.consumed, h.buf8, h.buf16⟩

theorem QuietButPhase.trans {s t u : State} (h : QuietButPhase s t) (k : QuietButPhase t u) :
    QuietButPhase s u :=
  ⟨k.payload.trans h.payload, k.consumed.trans h.consumed, k.buf8.trans h.buf8,
    k.buf16.trans h.buf16⟩

theorem setPhase_quiet (s : State) (p : Phase) : QuietButPhase s (s.setPhase p) :=
  ⟨rfl, rfl, rfl, rfl⟩

theorem QuietButPhase.andThen {s : State} {r : Run} {f : State → Run} (h : QuietButPhase s r.st)
    (k : ∀ t, QuietButPhase t (f t).st) : QuietButPhase s (r.andThen f).st := by
  cases hr : r.err with
  | none => rw [andThen_of_ok hr]; exact h.trans (k _)
  | some e => rw [andThen_of_err hr]; exact h

theorem initSequence_quiet (s : State) : QuietButPhase s (initSequence s).st := by
  unfold initSequence
  exact (((((setPhase_quiet s _).trans (hardReset_quiet _).butPhase).andThen
    fun t => (setPhase_quiet t _).trans (backlightEngage_quiet _).butPhase).andThen
    fun t => (playSteps_quiet _ t).butPhase).andThen
    fun t => (setPhase_quiet t _).trans (displayOn_quiet _).butPhase).andThen
    fun t => setPhase_quiet t _

/-- A successful INIT ends in phase DisplayOn. -/
theorem initSequence_phase (s : State) (h : (initSequence s).err = none) :
    (initSequence s).st.phase = .displayOn := by
  unfold initSequence at *
  generalize (((hardReset (s.setPhase .unpowered)).andThen
    (fun t => backlightEngage (t.setPhase .reset))).andThen registerProgram).andThen
    (fun t => displayOn (t.setPhase .registerProgrammed)) = r at *
  cases hr : r.err with
  | none => rw [andThen_of_ok hr]; rfl
  | some k => rw [andThen_of_err hr] at h; rw [hr] at h; cases h

/-- The four transitions, all answers `ok`. -/
theorem initSequence_ok (s : State) (h : AnswersOk s) :
    Emits s (initTrace s) (initSequence s).st ∧ (initSequence s).err = none := by
  have h0 : Emits s [] (s.setPhase .unpowered) := setPhase_emits s _
  have w1 := hardReset_ok (s.setPhase .unpowered) (h0.answersOk h)
  have e1 : Emits s (hardResetTrace s) (hardReset (s.setPhase .unpowered)).st := h0.append w1.emits
  generalize hr1 : hardReset (s.setPhase .unpowered) = r1 at w1 e1
  have f1 : Emits s (hardResetTrace s) (r1.st.setPhase .reset) := by
    simpa using e1.append (setPhase_emits r1.st .reset)
  have w2 := backlightEngage_ok (r1.st.setPhase .reset) (f1.answersOk h)
  have t2 : backlightTrace (r1.st.setPhase .reset) = backlightTrace s := by
    simp [backlightTrace, e1.has, e1.params]
  rw [t2] at w2
  have e2 := f1.append w2.emits
  generalize hr2 : backlightEngage (r1.st.setPhase .reset) = r2 at w2 e2
  have w3 := playSteps_ok r2.st.params.regProgram r2.st (e2.answersOk h)
  have t3 : stepTrace r2.st = stepTrace s := funext (stepTrace_of_emits e2)
  rw [t3, e2.params] at w3
  have e3 := e2.append w3.emits
  have hreg : registerProgram r2.st = playSteps s.params.regProgram r2.st := by
    unfold registerProgram; rw [e2.params]
  generalize hr3 : playSteps s.params.regProgram r2.st = r3 at w3 e3 hreg
  have f3 := e3.append (setPhase_emits r3.st .registerProgrammed)
  have w4 := displayOn_ok (r3.st.setPhase .registerProgrammed) (f3.answersOk h)
  have t4 : displayOnTrace (r3.st.setPhase .registerProgrammed) = displayOnTrace s := by
    simp only [displayOnTrace, commandTrace_of_emits f3, f3.params]
  rw [t4] at w4
  have e4 := f3.append w4.emits
  generalize hr4 : displayOn (r3.st.setPhase .registerProgrammed) = r4 at w4 e4
  have f4 := e4.append (setPhase_emits r4.st .displayOn)
  have hi : initSequence s = succeed (r4.st.setPhase .displayOn) := by
    unfold initSequence
    rw [hr1, andThen_of_ok w1.err, hr2, andThen_of_ok w2.err, hreg, andThen_of_ok w3.err, hr4,
      andThen_of_ok w4.err]
  rw [hi]
  refine ⟨?_, rfl⟩
  have ht : initTrace s = hardResetTrace s ++ backlightTrace s ++
      s.params.regProgram.flatMap (stepTrace s) ++ displayOnTrace s := by
    simp [initTrace, hardResetTrace, backlightTrace, displayOnTrace]
  rw [ht]
  simpa using f4

end Sys2Proof.Machine
end

