-- ==== Sys2Proof/Laws/Exec.lean ====
section
/-! SUPPORT. What an instruction that answers a next state did, said once for all of them (`exec_does`):
its calls, how it ended, the kinds of event it can make, and the errors no call causes. -/

namespace Sys2Proof.Machine

/-- What a request did that answers `t` from `s`: its calls `es`, the error it ended with, the events `P`
it can make and the errors `X` no call causes; and what no request touches. -/
structure RequestDoes (s t : State) (es : List Event) (err : Option Err) (P : Event → Prop)
    (X : Err → Prop) : Prop where
  trace : t.trace = s.trace ++ es
  lvl : t.lvl = latchesAfter s.lvl es
  env : answeredBy s.env es t.env
  resp : t.responses = s.responses ++ [(Run.mk t err).response]
  ends : EndsAt (Follows s) X es err
  events : ∀ e ∈ es, P e
  allowed : callsAllowed s.has s.lvl es = true
  csNotLow : s.lvl.cs ≠ .low → (latchesAfter s.lvl es).cs ≠ .low
  live : s.released = false
  has : t.has = s.has
  params : t.params = s.params
  sizeX : t.sizeX = s.sizeX
  sizeY : t.sizeY = s.sizeY
  requests : t.requests = s.requests

theorem next_inj {s t : State}
    (h : (Host.Outcome.next s : Host.Outcome State Fault Refusal) = .next t) : s = t := by injection h

@[simp] theorem lastResponse_pushResponse (s : State) (r : Response) :
    (s.pushResponse r).lastResponse = some r := by simp [State.lastResponse]

/-- A request that only runs and responds. -/
theorem requestDoes_of_run {s t : State} {P : Event → Prop} {X : Err → Prop} {r : Run}
    (hl : s.released = false) (h : Does P X s r) (ht : respond r = .next t) :
    ∃ es err, RequestDoes s t es err P X := by
  obtain ⟨es, h1, h2, h3, h4, h5⟩ := h
  have ht := (next_inj ht).symm
  subst ht
  refine ⟨es, r.err, ⟨?_, ?_, ?_, ?_, h2, h3, h4, h5, hl, ?_, ?_, ?_, ?_, ?_⟩⟩
  · simpa using h1.trace
  · simpa using h1.lvl
  · simpa using h1.env
  · simp [State.pushResponse, h1.responses, Run.response]
  · simpa using h1.has
  · simpa using h1.params
  · simpa using h1.sizeX
  · simpa using h1.sizeY
  · simpa using h1.requests

/-- A data request, which runs, gives the buffer back and responds. -/
theorem requestDoes_of_lentRun {s t : State} {P : Event → Prop} {X : Err → Prop} {r : Run}
    (hl : s.released = false) (h : Does P X s r) (ht : respondLent r = .next t) :
    ∃ es err, RequestDoes s t es err P X := by
  obtain ⟨es, h1, h2, h3, h4, h5⟩ := h
  have ht := (next_inj ht).symm
  subst ht
  refine ⟨es, r.err, ⟨?_, ?_, ?_, ?_, h2, h3, h4, h5, hl, ?_, ?_, ?_, ?_, ?_⟩⟩
  · simpa using h1.trace
  · simpa using h1.lvl
  · simpa using h1.env
  · simp [State.pushResponse, h1.responses, Run.response]
  · simpa using h1.has
  · simpa using h1.params
  · simpa using h1.sizeX
  · simpa using h1.sizeY
  · simpa using h1.requests

/-- A command row is the command transmission of its mnemonic. -/
theorem exec_of_command {i : Instr} {c : Command} (h : i.command? = some c) (s : State) :
    exec i s = execCommand c s := by
  cases i <;> simp [Instr.command?] at h <;> subst h <;> rfl

theorem ifWindowFits_next {sx sy ex ey : U16} {s t : State} {o : Host.Outcome State Fault Refusal}
    (h : ifWindowFits sx sy ex ey s o = .next t) : o = .next t := by
  unfold ifWindowFits at h
  split at h
  · exact h
  · cases h

/-- SET_BACKLIGHT's events. -/
def IsBacklightEvent : Event → Prop
  | .pin .bl _ _ => True
  | .delay _ => True
  | .pin .rst _ _ => False
  | .pin .dc _ _ => False
  | .pin .cs _ _ => False
  | .bus _ _ => False

/-- The events an instruction can make. -/
def eventsOf (i : Instr) : Event → Prop :=
  match i with
  | .init => AnyEvent
  | .setBacklight _ => IsBacklightEvent
  | .release => fun _ => False
  | .setOrientation _ | .setAddressWindow _ _ _ _ | .setPixel _ _ _ | .setPixels _ _ _ _ _
  | .blitPixels _ _ _ _ _ | .setScrollOffset _ | .setTearingEffect _ | .xmitCmd _ | .xmitData _
  | .nop | .swreset | .slpin | .slpout | .ptlon | .noron | .invoff | .invon
  | .dispoff | .dispon | .caset | .raset | .ramwr | .ptlar | .vscrder | .teoff
  | .teon | .madctl | .vscad | .colmod | .porctrl | .gctrl | .vcoms | .lcmctrl
  | .vdvvrhen | .vrhs | .vdvs | .vcmofset | .frctrl2 | .pwctrl1 | .pvgamctrl | .nvgamctrl =>
    IsXmitEvent

/-- The errors of an instruction that no failed call causes: the unsupported format, the blit length. -/
def ownErrorOf (s : State) (i : Instr) : Err → Prop :=
  match i with
  | .xmitData src => OwnError src
  | .blitPixels _ _ dx dy data =>
    fun k => k = s.params.eBlitLen ∧ data.length ≠ dx.toNat * dy.toNat * 2
  | .init | .setOrientation _ | .setAddressWindow _ _ _ _ | .setPixel _ _ _ | .setPixels _ _ _ _ _
  | .setScrollOffset _ | .setTearingEffect _ | .setBacklight _ | .release | .xmitCmd _
  | .nop | .swreset | .slpin | .slpout | .ptlon | .noron | .invoff | .invon
  | .dispoff | .dispon | .caset | .raset | .ramwr | .ptlar | .vscrder | .teoff
  | .teon | .madctl | .vscad | .colmod | .porctrl | .gctrl | .vcoms | .lcmctrl
  | .vdvvrhen | .vrhs | .vdvs | .vcmofset | .frctrl2 | .pwctrl1 | .pvgamctrl | .nvgamctrl =>
    NoOwnError

/-! ## SET_ORIENTATION and BLIT_PIXELS, which do more than run and respond -/

/-- The two transmissions of SET_ORIENTATION. -/
def sendOrientation (o : Orientation) (s : State) : Run :=
  (xmitCommand .madctl s).andThen (xmitData (.u8 [s.params.madctlByte.get o]))

theorem sendOrientation_does (o : Orientation) (s : State) :
    Does IsXmitEvent NoOwnError s (sendOrientation o s) :=
  (xmitCommand_does _ _).andThen fun t _ _ => xmitData_u8_does _ t

theorem sendOrientation_quiet (o : Orientation) (s : State) : Quiet s (sendOrientation o s).st :=
  (xmitCommand_quiet _ _).andThen fun t => xmitData_u8_quiet _ t

/-- Either a transmission failed and no register is written, or both succeeded and all three are. -/
theorem execSetOrientation_next {o : Orientation} {s t : State}
    (h : exec (.setOrientation o) s = .next t) :
    s.released = false ∧
      ((∃ k, (sendOrientation o s).err = some k ∧
          t = (sendOrientation o s).st.pushResponse (.err k)) ∨
        ((sendOrientation o s).err = none ∧
          t = ((sendOrientation o s).st.setAddressing o
            (offsets s.params.offsetAxis o s.sizeY)).pushResponse .ok)) := by
  obtain ⟨hl, h⟩ := ifLive_next h
  have ht : t = ((sendOrientation o s).andThen (recordOrientation o)).st.pushResponse
      ((sendOrientation o s).andThen (recordOrientation o)).response := (next_inj h).symm
  refine ⟨hl, ?_⟩
  cases hr : (sendOrientation o s).err with
  | some k =>
    rw [andThen_of_err hr] at ht
    exact .inl ⟨k, rfl, by rw [ht]; simp [Run.response, hr]⟩
  | none =>
    obtain ⟨es, h1, -⟩ := sendOrientation_does o s
    rw [andThen_of_ok hr] at ht
    refine .inr ⟨rfl, ?_⟩
    rw [ht]
    simp [recordOrientation, Run.response, h1.params, h1.sizeY]

/-- Either the length is wrong and nothing is called, or the window is sent. -/
theorem execBlitPixels_next {sx sy dx dy : U16} {data : List U8} {s t : State}
    (h : exec (.blitPixels sx sy dx dy data) s = .next t) :
    s.released = false ∧
      ((data.length ≠ blitLength dx dy ∧
          t = (s.lend (.bytes data)).giveBack.pushResponse (.err s.params.eBlitLen)) ∨
        (data.length = blitLength dx dy ∧
          respondLent (sendPixels sx sy (narrow16 (blitEnd sx dx)) (narrow16 (blitEnd sy dy)) (.u8 data)
            (s.lend (.bytes data))) = .next t)) := by
  obtain ⟨hl, h⟩ := ifLive_next h
  refine ⟨hl, ?_⟩
  split at h
  · rename_i hlen
    refine .inr ⟨hlen, ?_⟩
    unfold blit at h
    split at h
    · cases h
    · split at h
      · exact ifWindowFits_next h
      · cases h
  · rename_i hlen
    exact .inl ⟨hlen, (next_inj h).symm⟩

theorem setBacklight_does (b : BacklightState) (s : State) :
    Does IsBacklightEvent NoOwnError s
      (match s.has.bl with
       | false => succeed s
       | true => drivePinThenWait .bl (backlightDrive b) s.params.tBlUs s) := by
  cases h : s.has.bl with
  | false => exact does_silent (Emits.nil s)
  | true => exact drivePinThenWait_does _ _ _ _ (.inr rfl) h (fun _ => trivial) trivial

/-! ## All instructions -/

theorem exec_does (i : Instr) (s t : State) (h : exec i s = .next t) :
    ∃ es err, RequestDoes s t es err (eventsOf i) (ownErrorOf s i) := by
  have w : ∀ {r : Run} {P : Event → Prop} {X : Err → Prop}, Does P NoOwnError s r → Does P X s r :=
    fun h => h.mono (fun _ h => h) (fun _ h => h.elim)
  have l : ∀ {r : Run} {X : Err → Prop} {p : Payload} {src : Source},
      (∀ k, OwnError src k → X k) → Does IsXmitEvent (OwnError src) (s.lend p) r →
      Does IsXmitEvent X s r :=
    fun hX h => (h.mono (fun _ h => h) hX).after_silent (lend_emits s _)
  cases i with
  | init =>
    obtain ⟨hl, h⟩ := ifLive_next h
    exact requestDoes_of_run hl (unpoweredOnError_does (initSequence_does s)) h
  | setOrientation o =>
    obtain ⟨hl, ⟨k, hk, rfl⟩ | ⟨hk, rfl⟩⟩ := execSetOrientation_next h
    · exact requestDoes_of_run hl (sendOrientation_does o s) (by simp [respond_eq, Run.response, hk])
    · obtain ⟨es, h1, h2, h3, h4, h5⟩ := sendOrientation_does o s
      exact ⟨es, none, ⟨by simpa using h1.trace, by simpa using h1.lvl, by simpa using h1.env,
        by simp [State.pushResponse, h1.responses, Run.response], by rwa [hk] at h2, h3, h4, h5, hl,
        by simpa using h1.has, by simpa using h1.params, by simpa using h1.sizeX,
        by simpa using h1.sizeY, by simpa using h1.requests⟩⟩
  | setAddressWindow sx sy ex ey =>
    obtain ⟨hl, h⟩ := ifLive_next h
    exact requestDoes_of_run hl (sendWindow_does _ _ _ _ s) (ifWindowFits_next h)
  | setPixel x y color =>
    obtain ⟨hl, h⟩ := ifLive_next h
    exact requestDoes_of_run hl
      ((sendPixels_does _ _ _ _ _ s).mono (fun _ h => h) fun _ h => ownError_u8 h)
      (ifWindowFits_next h)
  | setPixels sx sy ex ey colors =>
    obtain ⟨hl, h⟩ := ifLive_next h
    exact requestDoes_of_lentRun hl
      (l (fun _ h => ownError_u16beIter h) (sendPixels_does _ _ _ _ _ _)) (ifWindowFits_next h)
  | blitPixels sx sy dx dy data =>
    obtain ⟨hl, ⟨hlen, h⟩ | ⟨hlen, h⟩⟩ := execBlitPixels_next h
    · exact ⟨[], some s.params.eBlitLen, ⟨by simp [h], by simp [h], by simp [h, answeredBy],
        by simp [h, State.pushResponse, Run.response], .inr ⟨⟨rfl, hlen⟩, clean_nil⟩, by simp, rfl, by simp, hl,
        by simp [h], by simp [h], by simp [h], by simp [h], by simp [h]⟩⟩
    · exact requestDoes_of_lentRun hl
        (l (fun _ h => (ownError_u8 h).elim) (sendPixels_does _ _ _ _ _ _)) h
  | setScrollOffset offset =>
    obtain ⟨hl, h⟩ := ifLive_next h
    exact requestDoes_of_run hl
      ((xmitCommand_does _ _).andThen fun t _ _ => xmitData_u8_does _ t) h
  | setTearingEffect mode =>
    obtain ⟨hl, h⟩ := ifLive_next h
    have flag : ∀ v, Does IsXmitEvent NoOwnError s (xmitTearingFlag v s) := fun v =>
      (xmitCommand_does _ _).andThen fun t _ _ => xmitData_u8_does _ t
    cases mode with
    | off => exact requestDoes_of_run hl (xmitCommand_does _ s) h
    | vertical => exact requestDoes_of_run hl (flag _) h
    | horizontalAndVertical => exact requestDoes_of_run hl (flag _) h
    | reserved => cases h
  | setBacklight b =>
    obtain ⟨hl, h⟩ := ifLive_next h
    exact requestDoes_of_run hl (setBacklight_does b s) h
  | release =>
    obtain ⟨hl, h⟩ := ifLive_next h
    have h := (next_inj h).symm
    exact ⟨[], none, ⟨by simp [h], by simp [h], by simp [h, answeredBy],
      by simp [h, State.pushResponse, Run.response], clean_nil, by simp, rfl, by simp, hl,
      by simp [h], by simp [h], by simp [h], by simp [h], by simp [h]⟩⟩
  | xmitCmd c =>
    obtain ⟨hl, h⟩ := ifLive_next h
    exact requestDoes_of_run hl (xmitU8_does _ _ s) h
  | xmitData src =>
    obtain ⟨hl, h⟩ := ifLive_next h
    exact requestDoes_of_lentRun hl (l (fun _ h => h) (xmit_does _ _ _)) h
  | _ =>
    obtain ⟨hl, h⟩ := ifLive_next h
    exact requestDoes_of_run hl (xmitCommand_does _ s) h

/-- A step is idle, or runs the decoded request with the request taken from the port. -/
theorem step_next {s t : State} (h : step s = .next t) :
    t = s ∨ ∃ i r rest, s.requests = r :: rest ∧ decode r = .ok i ∧
      exec i (s.setRequests rest) = .next t := by
  unfold step runNextRequest at h
  split at h
  · exact .inl (next_inj h).symm
  · rename_i r rest hr
    unfold runRequest at h
    split at h
    · rename_i i hi; exact .inr ⟨i, r, rest, hr, hi, h⟩
    · cases h

end Sys2Proof.Machine
end

