-- ==== Sys2Proof/Laws/PerInstr.lean ====
section
/-! SUPPORT. The per-instruction family `EncodedFormat`: the encoded form of every instruction carries the
fixed bits of its row of spec/opcode_table.json, and a request word has bit 67 clear, as an assembler
writes it (30_encoding.md R51, R58). -/

namespace Sys2Proof.Laws.EncodedFormat

/-- A request word whose header has `m` in the bits the mask 0xF0 fixes, and bit 67 clear. -/
def ReqHeader (m : U8) : Request → Prop
  | .req w _ => w.extractLsb' 64 8 &&& 0xF8 = m
  | .cmd8 _ => False

/-- A command byte, all of whose bits are fixed. -/
def CommandByte (m : U8) : Request → Prop
  | .req _ _ => False
  | .cmd8 b => b = m

/-- The fixed bits of an instruction's row. -/
def rowBits : Instr → Request → Prop
  | .init => ReqHeader 0x00
  | .setOrientation _ => ReqHeader 0x10
  | .setAddressWindow _ _ _ _ => ReqHeader 0x20
  | .setPixel _ _ _ => ReqHeader 0x30
  | .setPixels _ _ _ _ _ => ReqHeader 0x40
  | .blitPixels _ _ _ _ _ => ReqHeader 0x50
  | .setScrollOffset _ => ReqHeader 0x60
  | .setTearingEffect _ => ReqHeader 0x70
  | .setBacklight _ => ReqHeader 0x80
  | .release => ReqHeader 0x90
  | .xmitCmd _ => ReqHeader 0xA0
  | .xmitData _ => ReqHeader 0xB0
  | .nop => CommandByte 0x00
  | .swreset => CommandByte 0x01
  | .slpin => CommandByte 0x10
  | .slpout => CommandByte 0x11
  | .ptlon => CommandByte 0x12
  | .noron => CommandByte 0x13
  | .invoff => CommandByte 0x20
  | .invon => CommandByte 0x21
  | .dispoff => CommandByte 0x28
  | .dispon => CommandByte 0x29
  | .caset => CommandByte 0x2A
  | .raset => CommandByte 0x2B
  | .ramwr => CommandByte 0x2C
  | .ptlar => CommandByte 0x30
  | .vscrder => CommandByte 0x33
  | .teoff => CommandByte 0x34
  | .teon => CommandByte 0x35
  | .madctl => CommandByte 0x36
  | .vscad => CommandByte 0x37
  | .colmod => CommandByte 0x3A
  | .porctrl => CommandByte 0xB2
  | .gctrl => CommandByte 0xB7
  | .vcoms => CommandByte 0xBB
  | .lcmctrl => CommandByte 0xC0
  | .vdvvrhen => CommandByte 0xC2
  | .vrhs => CommandByte 0xC3
  | .vdvs => CommandByte 0xC4
  | .vcmofset => CommandByte 0xC5
  | .frctrl2 => CommandByte 0xC6
  | .pwctrl1 => CommandByte 0xD0
  | .pvgamctrl => CommandByte 0xE0
  | .nvgamctrl => CommandByte 0xE1

/-- The encoded form carries them. -/
def Statement (i : Instr) : Prop := rowBits i (encode i)

theorem reqHeader (op : BitVec 4) (fmt : BitVec 3) (a0 a1 a2 a3 : U16) :
    (packReq op fmt a0 a1 a2 a3).extractLsb' 64 8 &&& 0xF8 = op ++ 0#4 := by
  rw [header_pack]
  revert op fmt
  decide

theorem init : Statement (.init) := reqHeader _ _ _ _ _ _

theorem setOrientation (o : Orientation) : Statement (.setOrientation o) := reqHeader _ _ _ _ _ _

theorem setAddressWindow (sx sy ex ey : U16) : Statement (.setAddressWindow sx sy ex ey) := reqHeader _ _ _ _ _ _

theorem setPixel (x y color : U16) : Statement (.setPixel x y color) := reqHeader _ _ _ _ _ _

theorem setPixels (sx sy ex ey : U16) (colors : List U16) : Statement (.setPixels sx sy ex ey colors) := reqHeader _ _ _ _ _ _

theorem blitPixels (sx sy dx dy : U16) (data : List U8) : Statement (.blitPixels sx sy dx dy data) := reqHeader _ _ _ _ _ _

theorem setScrollOffset (offset : U16) : Statement (.setScrollOffset offset) := reqHeader _ _ _ _ _ _

theorem setTearingEffect (mode : TearingMode) : Statement (.setTearingEffect mode) := reqHeader _ _ _ _ _ _

theorem setBacklight (state : BacklightState) : Statement (.setBacklight state) := reqHeader _ _ _ _ _ _

theorem release : Statement (.release) := reqHeader _ _ _ _ _ _

theorem xmitCmd (c : U8) : Statement (.xmitCmd c) := reqHeader _ _ _ _ _ _

theorem xmitData (src : Source) : Statement (.xmitData src) := reqHeader _ _ _ _ _ _

theorem nop : Statement .nop := rfl

theorem swreset : Statement .swreset := rfl

theorem slpin : Statement .slpin := rfl

theorem slpout : Statement .slpout := rfl

theorem ptlon : Statement .ptlon := rfl

theorem noron : Statement .noron := rfl

theorem invoff : Statement .invoff := rfl

theorem invon : Statement .invon := rfl

theorem dispoff : Statement .dispoff := rfl

theorem dispon : Statement .dispon := rfl

theorem caset : Statement .caset := rfl

theorem raset : Statement .raset := rfl

theorem ramwr : Statement .ramwr := rfl

theorem ptlar : Statement .ptlar := rfl

theorem vscrder : Statement .vscrder := rfl

theorem teoff : Statement .teoff := rfl

theorem teon : Statement .teon := rfl

theorem madctl : Statement .madctl := rfl

theorem vscad : Statement .vscad := rfl

theorem colmod : Statement .colmod := rfl

theorem porctrl : Statement .porctrl := rfl

theorem gctrl : Statement .gctrl := rfl

theorem vcoms : Statement .vcoms := rfl

theorem lcmctrl : Statement .lcmctrl := rfl

theorem vdvvrhen : Statement .vdvvrhen := rfl

theorem vrhs : Statement .vrhs := rfl

theorem vdvs : Statement .vdvs := rfl

theorem vcmofset : Statement .vcmofset := rfl

theorem frctrl2 : Statement .frctrl2 := rfl

theorem pwctrl1 : Statement .pwctrl1 := rfl

theorem pvgamctrl : Statement .pvgamctrl := rfl

theorem nvgamctrl : Statement .nvgamctrl := rfl

end Sys2Proof.Laws.EncodedFormat
end

