-- ==== Sys2Proof/Machine/Assembler.lean ====
section
/-! DEFINITION. The assembler syntax of requests (30_encoding.md R61, D36), as a printer: mnemonic
first, operands separated by commas, numbers in decimal, a payload as a bracketed list. A command row
stands for XMIT_CMD of its byte (entry 1). -/

namespace Sys2Proof

/-- Numbers in decimal. -/
def asmNum {n : Nat} (v : BitVec n) : String := toString v.toNat

/-- Operands separated by commas. -/
def asmOperands (ops : List String) : String := String.intercalate ", " ops

/-- A payload as a bracketed list. -/
def asmList {n : Nat} (l : List (BitVec n)) : String := "[" ++ asmOperands (l.map asmNum) ++ "]"

/-- A payload of either element type. -/
def asmPayload : Payload → String
  | .bytes l => asmList l
  | .halves l => asmList l

/-- An orientation as `O0` to `O3`. -/
def asmOrientation : Orientation → String
  | .o0 => "O0"
  | .o1 => "O1"
  | .o2 => "O2"
  | .o3 => "O3"

/-- A tearing mode by its name; the reserved code as the number it is. -/
def asmTearing : TearingMode → String
  | .off => "Off"
  | .vertical => "Vertical"
  | .horizontalAndVertical => "HorizontalAndVertical"
  | .reserved => "3"

/-- A backlight state by its name. -/
def asmBacklight : BacklightState → String
  | .off => "Off"
  | .on => "On"

/-- A source format by its name in R54. -/
def asmFormat : Source → String
  | .u8 _ => "U8"
  | .u16 _ => "U16"
  | .u16be _ => "U16BE"
  | .u16le _ => "U16LE"
  | .u8Iter _ => "U8Iter"
  | .u16beIter _ => "U16BEIter"
  | .u16leIter _ => "U16LEIter"
  | .unsupported _ => "Unsupported"

/-- A mnemonic with operands. -/
def asmWith (mnemonic : String) (ops : List String) : String := mnemonic ++ " " ++ asmOperands ops

/-- A command row as the XMIT_CMD it stands for; requests are printed by `asm`. -/
def asmCommand (i : Instr) : String :=
  match i.command? with
  | some c => asmWith "XMIT_CMD" [asmNum c.tableByte]
  | none => ""

/-- One line of assembler syntax. -/
def asm (i : Instr) : String :=
  match i with
  | .init => "INIT"
  | .setOrientation o => asmWith "SET_ORIENTATION" [asmOrientation o]
  | .setAddressWindow sx sy ex ey =>
    asmWith "SET_ADDRESS_WINDOW" [asmNum sx, asmNum sy, asmNum ex, asmNum ey]
  | .setPixel x y color => asmWith "SET_PIXEL" [asmNum x, asmNum y, asmNum color]
  | .setPixels sx sy ex ey colors =>
    asmWith "SET_PIXELS" [asmNum sx, asmNum sy, asmNum ex, asmNum ey, asmList colors]
  | .blitPixels sx sy dx dy data =>
    asmWith "BLIT_PIXELS" [asmNum sx, asmNum sy, asmNum dx, asmNum dy, asmList data]
  | .setScrollOffset offset => asmWith "SET_SCROLL_OFFSET" [asmNum offset]
  | .setTearingEffect mode => asmWith "SET_TEARING_EFFECT" [asmTearing mode]
  | .setBacklight state => asmWith "SET_BACKLIGHT" [asmBacklight state]
  | .release => "RELEASE"
  | .xmitCmd c => asmWith "XMIT_CMD" [asmNum c]
  | .xmitData src => asmWith "XMIT_DATA" [asmFormat src, asmPayload src.payload]
  | .nop | .swreset | .slpin | .slpout | .ptlon | .noron | .invoff | .invon
  | .dispoff | .dispon | .caset | .raset | .ramwr | .ptlar | .vscrder | .teoff
  | .teon | .madctl | .vscad | .colmod | .porctrl | .gctrl | .vcoms | .lcmctrl
  | .vdvvrhen | .vrhs | .vdvs | .vcmofset | .frctrl2 | .pwctrl1 | .pvgamctrl | .nvgamctrl =>
    asmCommand i

/-- A strap as 0 or 1. -/
def asmStrap (b : Bool) : String := if b then "1" else "0"

/-- A construction, `NEW rst=1 bl=1 dc=1 cs=1 size=240x240`. -/
def asmNew (rst bl dc cs : Bool) (sx sy : U16) : String :=
  "NEW rst=" ++ asmStrap rst ++ " bl=" ++ asmStrap bl ++ " dc=" ++ asmStrap dc ++
    " cs=" ++ asmStrap cs ++ " size=" ++ asmNum sx ++ "x" ++ asmNum sy

end Sys2Proof
end

