-- ==== Sys2Proof/Tests/Slice0.lean ====
section
/-! SUPPORT. The model's own tests. Expected results are the spec's: words and traces of 95_test_vectors.md
(V and P numbers), rows of 30_encoding.md, or hand calculation from the rule named. Then, for every
statement with hypotheses, a concrete state and operands that meet them. -/

namespace Sys2Proof.Tests

open Sys2Proof Sys2Proof.Machine

/-! ## Helpers -/

/-- An instance right after construction with the default parameters, whose environment gives the
answers of a script and then `ok` for ever. -/
def dev (has : Straps) (script : List Answer) (program : List RegStep) : State :=
  constructed has 240 240 (Params.suggested program) { script := script, tail := .always .ok }

def allLines : Straps := { rst := true, bl := true, dc := true, cs := true }
def noLines : Straps := { rst := false, bl := false, dc := false, cs := false }
def csDc : Straps := { rst := false, bl := false, dc := true, cs := true }

/-- All lines present, every answer `ok`. -/
def wired : State := dev allLines [] []

/-- No line present, every answer `ok`. -/
def bare : State := dev noLines [] []

/-- A big-endian host without lines. -/
def bareBig : State := { bare with params := { bare.params with nativeOrder := .be } }

/-- The trace a request leaves; none where it is refused. -/
def traceOf (o : Host.Outcome State Fault Refusal) : Option (List Event) :=
  match o with
  | .next t => some t.trace
  | .fault _ => none
  | .refused _ => none

/-- The state a request leaves, read through a function. -/
def after {α : Type} (f : State → α) (o : Host.Outcome State Fault Refusal) : Option α :=
  match o with
  | .next t => some (f t)
  | .fault _ => none
  | .refused _ => none

/-- The refusal of a request. -/
def refusalOf (o : Host.Outcome State Fault Refusal) : Option Refusal :=
  match o with
  | .next _ => none
  | .fault _ => none
  | .refused r => some r

/-- The bus writes of a trace, by their bytes. -/
def writes (o : Host.Outcome State Fault Refusal) : Option (List (List U8)) :=
  (traceOf o).map (fun es => (es.map Event.busBytes).filter (fun bs => bs ≠ []))

def csLow : Event := .pin .cs .low .ok
def csHigh : Event := .pin .cs .high .ok
def dcLow : Event := .pin .dc .low .ok
def dcHigh : Event := .pin .dc .high .ok

/-- A bracketed command and a bracketed datum on an instance with CS and DC. -/
def cmdEv (c : U8) : List Event := [csLow, dcLow, .bus [c] .ok, csHigh]
def dataEv (bs : List U8) : List Event := [csLow, dcHigh, .bus bs .ok, csHigh]

/-! ## Well-formedness -/

/-- 30_encoding.md R59: tearing mode 3 is refused by the check; the other three pass. -/
theorem test_wellFormed_refuses_reserved_mode :
    ¬ WellFormed (.setTearingEffect .reserved) ∧ WellFormed (.setTearingEffect .off) := by decide

/-! ## Decoding: words written out from 30_encoding.md R51 to R54 and 95_test_vectors.md -/

/-- V9, V35, V36 (INIT, SET_ORIENTATION, SET_ADDRESS_WINDOW). -/
theorem test_decode_words_0_to_2 :
    decode (.req 0x000000000000000000 (.bytes [])) = .ok .init ∧
    decode (.req 0x100002000000000000 (.bytes [])) = .ok (.setOrientation .o2) ∧
    decode (.req 0x200000000000EF00EF (.bytes [])) = .ok (.setAddressWindow 0 0 239 239) := by
  decide

/-- V1, V39, P2 (SET_PIXEL, SET_PIXELS, BLIT_PIXELS). -/
theorem test_decode_words_3_to_5 :
    decode (.req 0x3000050007F8000000 (.bytes [])) = .ok (.setPixel 5 7 0xF800) ∧
    decode (.req 0x400000000000010001 (.halves [0xF800])) = .ok (.setPixels 0 0 1 1 [0xF800]) ∧
    decode (.req 0x50000A001400020002 (.bytes [0xF8])) = .ok (.blitPixels 10 20 2 2 [0xF8]) := by
  decide

/-- V42, V43, V44 (SET_SCROLL_OFFSET, SET_TEARING_EFFECT, SET_BACKLIGHT). -/
theorem test_decode_words_6_to_8 :
    decode (.req 0x600050000000000000 (.bytes [])) = .ok (.setScrollOffset 80) ∧
    decode (.req 0x700001000000000000 (.bytes [])) = .ok (.setTearingEffect .vertical) ∧
    decode (.req 0x800001000000000000 (.bytes [])) = .ok (.setBacklight .on) ∧
    decode (.req 0x800000000000000000 (.bytes [])) = .ok (.setBacklight .off) := by decide

/-- V45, V29, V28 (RELEASE, XMIT_CMD, XMIT_DATA). -/
theorem test_decode_words_9_to_B :
    decode (.req 0x900000000000000000 (.bytes [])) = .ok .release ∧
    decode (.req 0xA0002C000000000000 (.bytes [])) = .ok (.xmitCmd 0x2C) ∧
    decode (.req 0xB70000000000000000 (.bytes [1, 2, 3])) =
      .ok (.xmitData (.unsupported (.bytes [1, 2, 3]))) := by decide

/-- R54: the eight source formats of XMIT_DATA, `fmt = REQ[66:64]`. -/
theorem test_decode_formats :
    decode (.req 0xB00000000000000000 (.bytes [1])) = .ok (.xmitData (.u8 [1])) ∧
    decode (.req 0xB10000000000000000 (.halves [1])) = .ok (.xmitData (.u16 [1])) ∧
    decode (.req 0xB20000000000000000 (.halves [1])) = .ok (.xmitData (.u16be [1])) ∧
    decode (.req 0xB30000000000000000 (.halves [1])) = .ok (.xmitData (.u16le [1])) ∧
    decode (.req 0xB40000000000000000 (.bytes [1])) = .ok (.xmitData (.u8Iter [1])) ∧
    decode (.req 0xB50000000000000000 (.halves [1])) = .ok (.xmitData (.u16beIter [1])) ∧
    decode (.req 0xB60000000000000000 (.halves [1])) = .ok (.xmitData (.u16leIter [1])) := by
  decide

/-- V43, V46, R59: what is refused, and bit 67 ignored. -/
theorem test_decode_reserved :
    decode (.req 0xC00000000000000000 (.bytes [])) = .error .reservedOperation ∧
    decode (.req 0xF00000000000000000 (.bytes [])) = .error .reservedOperation ∧
    decode (.req 0x700003000000000000 (.bytes [])) = .error .reservedTearingMode ∧
    decode (.req 0x3800050007F8000000 (.bytes [])) = .ok (.setPixel 5 7 0xF800) ∧
    decode (.req 0xB00000000000000000 (.halves [1])) = .error .payloadTypeMismatch ∧
    decode (.cmd8 0x02) = .error .unassignedCommandByte := by decide

/-- R58, the command bytes below 0x30. -/
theorem test_decode_commands_low :
    [0x00, 0x01, 0x10, 0x11, 0x12, 0x13, 0x20, 0x21, 0x28, 0x29, 0x2A, 0x2B, 0x2C].map
        (fun b : U8 => commandOfByte b) =
      [Command.nop, .swreset, .slpin, .slpout, .ptlon, .noron, .invoff, .invon, .dispoff, .dispon,
        .caset, .raset, .ramwr].map some := by decide

/-- R58, the command bytes from 0x30 up. -/
theorem test_decode_commands_high :
    [0x30, 0x33, 0x34, 0x35, 0x36, 0x37, 0x3A, 0xB2, 0xB7, 0xBB, 0xC0, 0xC2, 0xC3, 0xC4, 0xC5,
        0xC6, 0xD0, 0xE0, 0xE1].map (fun b : U8 => commandOfByte b) =
      [Command.ptlar, .vscrder, .teoff, .teon, .madctl, .vscad, .colmod, .porctrl, .gctrl, .vcoms,
        .lcmctrl, .vdvvrhen, .vrhs, .vdvs, .vcmofset, .frctrl2, .pwctrl1, .pvgamctrl,
        .nvgamctrl].map some := by decide

/-- A command decodes to the instruction of its name, for the first and the last row. -/
theorem test_decode_command_instr :
    decode (.cmd8 0x00) = .ok .nop ∧ decode (.cmd8 0x36) = .ok .madctl ∧
    decode (.cmd8 0xE1) = .ok .nvgamctrl := by decide

/-- No two rows of format CMD8 share a byte. -/
theorem test_cmd8_rows_do_not_overlap : (cmd8Rows.map (fun row => row.1)).Nodup := by decide

/-- The opcode table's numbering: the header is bits 7..0, and `REQ[63:56]` bits 15..8. -/
theorem test_table_words :
    decodeTableWord 72 0x00000000F807000500A0 = some (.xmitCmd 0x05) ∧
    decodeTableWord 72 0x2C00A0 = some (.xmitCmd 0x2C) ∧
    decodeTableWord 8 0x90 = some .release ∧
    decodeTableWord 8 0x2A = some .caset ∧
    decodeTableWord 8 0x71 = some (.setTearingEffect .off) ∧
    decodeTableWord 8 0xF3 = none := by decide

/-- `withFetchWord` places the word where the next step takes its request. -/
theorem test_withFetchWord_runs_the_word :
    writes (step (bare.withFetchWord 8 0x2A)) = some [[0x2A]] ∧
    after (fun t => t.released) (step (bare.withFetchWord 8 0x90)) = some true := by decide

/-! ## Operands (V2, V6) -/

/-- V2. -/
theorem test_byte_order :
    be16 0xF800 = [0xF8, 0x00] ∧ le16 0xF800 = [0x00, 0xF8] ∧ bswap16 0xF800 = 0x00F8 ∧
    bswap16 0x00FF = 0xFF00 := by decide

/-- V6, V35: the offsets for `size_y` 240, 135, 320 and 0. -/
theorem test_offsets :
    offsets .o2ShiftsY_o3ShiftsX .o2 240 = (0, 80) ∧ offsets .o2ShiftsY_o3ShiftsX .o3 135 = (185, 0) ∧
    offsets .o2ShiftsY_o3ShiftsX .o2 320 = (0, 0) ∧ offsets .o2ShiftsY_o3ShiftsX .o3 0 = (320, 0) := by
  decide

/-! ## Sequencer (V29, V7, V10, V30, V31) -/

/-- V29 and R95, the four presences. -/
theorem test_xmitCmd_presences :
    traceOf (exec (.xmitCmd 0x2C) (dev csDc [] [])) = some (cmdEv 0x2C) ∧
    traceOf (exec (.xmitCmd 0x2C) (dev { csDc with dc := false } [] [])) =
      some [csLow, .bus [0x2C] .ok, csHigh] ∧
    traceOf (exec (.xmitCmd 0x2C) (dev { csDc with cs := false } [] [])) =
      some [dcLow, .bus [0x2C] .ok] ∧
    traceOf (exec (.xmitCmd 0x2C) bare) = some [.bus [0x2C] .ok] := by decide

/-- V7, V10, V30, V31: the place of the failure. -/
theorem test_xmitCmd_failures :
    traceOf (exec (.xmitCmd 0x2C) (dev allLines [.fail 9] [])) =
      some [.pin .cs .low (.fail 9), csHigh] ∧
    traceOf (exec (.xmitCmd 0x2C) (dev allLines [.ok, .fail 9] [])) =
      some [csLow, .pin .dc .low (.fail 9), csHigh] ∧
    after (fun t => (t.responses, t.lvl.cs))
      (exec (.xmitCmd 0x29) (dev allLines [.ok, .ok, .ok, .fail 9] [])) = some ([.ok], .unknown) ∧
    after (fun t => t.responses)
      (exec (.xmitCmd 0x29) (dev allLines [.ok, .ok, .fail 1, .fail 9] [])) =
      some [.err .busWriteFailed] := by decide

/-! ## Encoder (V20 to V28) -/

/-- V20, V22, V23, V25, V28: slices, native order, conversion in place, also when the write fails, and the
buffer given back after an earlier one (R200). -/
theorem test_xmitData_slices :
    traceOf (exec (.xmitData (.u8 [])) (dev csDc [] [])) = some [csLow, dcHigh, .bus [] .ok, csHigh] ∧
    writes (exec (.xmitData (.u16 [0xF800, 0x00FF])) bare) = some [[0x00, 0xF8, 0xFF, 0x00]] ∧
    writes (exec (.xmitData (.u16 [0xF800, 0x00FF])) bareBig) = some [[0xF8, 0x00, 0x00, 0xFF]] ∧
    after (fun t => (t.trace, t.payload)) (exec (.xmitData (.u16be [0x1234]))
      (dev noLines [.fail 0] [])) = some ([.bus [0x12, 0x34] .fail], .halves [0x3412]) ∧
    after (fun t => t.returned) (exec (.xmitData (.u16le [0x00FF, 0xF800]))
      { bareBig with returned := [⟨.bytes [7], 1⟩] }) =
      some [⟨.bytes [7], 1⟩, ⟨.halves [0xFF00, 0x00F8], 0⟩] ∧
    after (fun t => (t.trace, t.responses)) (exec (.xmitData (.unsupported (.bytes [1, 2, 3]))) bare) =
      some ([], [.err .formatNotImplemented]) := by decide

/-- V21, V26, V3, V27: an empty iterator makes no write, 33 half-words go out as 64 and 2 bytes, and of
seventy bytes whose second write fails 64 are consumed. -/
theorem test_xmitData_iterators :
    traceOf (exec (.xmitData (.u8Iter [])) (dev csDc [] [])) = some [csLow, dcHigh, csHigh] ∧
    writes (exec (.xmitData (.u16leIter [0xF800, 0x07E0])) bare) =
      some [[0x00, 0xF8, 0xE0, 0x07]] ∧
    after (fun t => t.trace.map (fun e => e.busBytes.length))
      (exec (.xmitData (.u16beIter (List.replicate 33 7))) bare) = some [64, 2] ∧
    after (fun t => (t.trace.map (fun e => e.busBytes.length), t.consumed, t.buf8))
      (exec (.xmitData (.u8Iter (List.replicate 70 7))) (dev noLines [.ok, .fail 0] [])) =
      some ([32, 32], 64, []) := by decide

/-! ## Addressing (V35 to V38) -/

/-- V35, V38. -/
theorem test_setOrientation :
    after (fun t => (t.trace, t.orientation, t.xStart, t.yStart)) (exec (.setOrientation .o3) bare) =
      some ([.bus [0x36] .ok, .bus [0xA0] .ok], .o3, 80, 0) ∧
    after (fun t => (t.responses, t.orientation, t.xStart)) (exec (.setOrientation .o3)
      (dev allLines [.ok, .ok, .ok, .ok, .ok, .ok, .fail 0] [])) =
      some ([.err .busWriteFailed], .o0, 0) := by decide

/-- V36 in state `O3`, and V37. -/
theorem test_setAddressWindow :
    writes (exec (.setAddressWindow 0 0 239 239)
      { bare with orientation := .o3, xStart := 80 }) =
      some [[0x2A], [0x00, 0x50], [0x01, 0x3F], [0x2B], [0x00, 0x00], [0x00, 0xEF]] ∧
    refusalOf (exec (.setAddressWindow 65535 0 65535 0)
      { bare with orientation := .o3, xStart := 80 }) = some .coordinateOverflow := by decide

/-! ## Pixel requests (V1, V11, V8, V39, V42 to V45) -/

/-- V1 (a). -/
theorem test_setPixel_all_lines :
    traceOf (exec (.setPixel 5 7 0xF800) wired) =
      some (cmdEv 0x2A ++ dataEv [0x00, 0x05] ++ dataEv [0x00, 0x05] ++ cmdEv 0x2B ++
        dataEv [0x00, 0x07] ++ dataEv [0x00, 0x07] ++ cmdEv 0x2C ++ dataEv [0xF8, 0x00]) := by decide

/-- V11: the third bus write fails. -/
theorem test_setPixel_failure :
    after (fun t => (t.trace, t.responses)) (exec (.setPixel 5 7 0xF800)
      (dev allLines [.ok, .ok, .ok, .ok, .ok, .ok, .ok, .ok, .ok, .ok, .fail 0] [])) =
      some (cmdEv 0x2A ++ dataEv [0x00, 0x05] ++ [csLow, dcHigh, .bus [0x00, 0x05] .fail, csHigh],
        [.err .busWriteFailed]) := by decide

/-- V39, V41: no check of the count. -/
theorem test_setPixels :
    writes (exec (.setPixels 0 0 1 1 [0xF800, 0x07E0, 0x001F, 0xFFFF]) bare) =
      some [[0x2A], [0x00, 0x00], [0x00, 0x01], [0x2B], [0x00, 0x00], [0x00, 0x01], [0x2C],
        [0xF8, 0x00, 0x07, 0xE0, 0x00, 0x1F, 0xFF, 0xFF]] ∧
    after (fun t => (t.consumed, t.responses)) (exec (.setPixels 0 0 0 0 [1, 2, 3]) bare) =
      some (3, [.ok]) := by decide

/-- V8. -/
theorem test_blitPixels :
    writes (exec (.blitPixels 0 0 2 2 [1, 2, 3, 4, 5, 6, 7, 8]) bare) =
      some [[0x2A], [0x00, 0x00], [0x00, 0x01], [0x2B], [0x00, 0x00], [0x00, 0x01], [0x2C],
        [1, 2, 3, 4, 5, 6, 7, 8]] ∧
    after (fun t => (t.trace, t.responses)) (exec (.blitPixels 0 0 2 2 [1, 2, 3]) bare) =
      some ([], [.err .formatNotImplemented]) ∧
    after (fun t => t.trace) (exec (.blitPixels 0 0 65535 65535 [1, 2, 3, 4, 5, 6, 7, 8]) bare) =
      some [] ∧
    refusalOf (exec (.blitPixels 0 0 0 5 []) bare) = some .blitZeroExtent := by decide

/-- V42. -/
theorem test_setScrollOffset :
    writes (exec (.setScrollOffset 0xFFFF) { bare with xStart := 80, yStart := 80 }) =
      some [[0x37], [0xFF, 0xFF]] := by decide

/-- V43. -/
theorem test_setTearingEffect :
    writes (exec (.setTearingEffect .off) bare) = some [[0x34]] ∧
    writes (exec (.setTearingEffect .horizontalAndVertical) bare) = some [[0x35], [0x01]] := by
  decide

/-- V44. -/
theorem test_setBacklight :
    traceOf (exec (.setBacklight .on) wired) = some [.pin .bl .high .ok, .delay 10000] ∧
    after (fun t => (t.trace, t.responses)) (exec (.setBacklight .on) (dev allLines [.fail 9] [])) =
      some ([.pin .bl .high (.fail 9)], [.err (.pin 9)]) ∧
    traceOf (exec (.setBacklight .off) bare) = some [] := by decide

/-- V45, P6. -/
theorem test_release :
    after (fun t => (t.trace, t.responses, t.released)) (exec .release wired) =
      some ([], [.ok], true) ∧
    refusalOf (exec .release { wired with released := true }) = some .afterRelease := by decide

/-! ## Initialization (V9, V32, P4) -/

/-- V9: the hard reset and the display-on commands. -/
theorem test_init_hard_reset :
    after (fun t => (t.trace, t.phase)) (exec .init (dev { noLines with rst := true } [] [])) =
      some ([.pin .rst .high .ok, .delay 10000, .pin .rst .low .ok, .delay 10000,
        .pin .rst .high .ok, .delay 10000, .bus [0x21] .ok, .delay 10000, .bus [0x11] .ok,
        .delay 10000, .bus [0x29] .ok, .delay 10000], .displayOn) := by decide

/-- P4 by its number of events, V32 by its trace and phase. -/
theorem test_init_program_and_failure :
    after (fun t => t.trace.length) (exec .init (dev allLines []
      [⟨0x11, [], 10000⟩, ⟨0x3A, [0x55], 10000⟩, ⟨0x36, [0x00], 10000⟩])) = some 47 ∧
    after (fun t => (t.trace, t.responses, t.phase, t.lvl.rst))
      (exec .init { dev allLines [.ok, .fail 3] [] with phase := .displayOn }) =
      some ([.pin .rst .high .ok, .delay 10000, .pin .rst .low (.fail 3)], [.err (.pin 3)],
        .unpowered, .unknown) := by decide

/-! ## Command rows: the byte each sends (R58) -/

/-- The rows below 0x30. -/
theorem test_command_rows_low :
    [Instr.nop, .swreset, .slpin, .slpout, .ptlon, .noron, .invoff, .invon, .dispoff, .dispon,
        .caset, .raset, .ramwr].map (fun i => writes (exec i bare)) =
      [0x00, 0x01, 0x10, 0x11, 0x12, 0x13, 0x20, 0x21, 0x28, 0x29, 0x2A, 0x2B, 0x2C].map
        (fun b : U8 => some [[b]]) := by decide

/-- The rows from 0x30 up. -/
theorem test_command_rows_high :
    [Instr.ptlar, .vscrder, .teoff, .teon, .madctl, .vscad, .colmod, .porctrl, .gctrl, .vcoms,
        .lcmctrl, .vdvvrhen, .vrhs, .vdvs, .vcmofset, .frctrl2, .pwctrl1, .pvgamctrl,
        .nvgamctrl].map (fun i => writes (exec i bare)) =
      [0x30, 0x33, 0x34, 0x35, 0x36, 0x37, 0x3A, 0xB2, 0xB7, 0xBB, 0xC0, 0xC2, 0xC3, 0xC4, 0xC5,
        0xC6, 0xD0, 0xE0, 0xE1].map (fun b : U8 => some [[b]]) := by decide

/-! ## Views, construction, assembler -/

/-- R16, R17 and V7: the packed registers after a failed assertion. -/
theorem test_packed_registers :
    wired.hasReg = 0xF ∧ (dev csDc [] []).hasReg = 0xC ∧
    after (fun t => t.lvlReg) (exec (.xmitCmd 0x2C) (dev allLines [.fail 9] [])) = some 0x80 := by
  decide

/-- P1: the wire view of a command and its datum. -/
theorem test_wire_view :
    after (fun t => t.wireView) (exec (.setOrientation .o3) (dev csDc [] [])) =
      some [.byte .cmd 0x36, .byte .data 0xA0] := by decide

/-- R180, V6: the bound of construction. -/
theorem test_construction_bound :
    refusalOf (construct noLines 240 321 wired.params wired.env) = some .sizeYTooLarge ∧
    after (fun t => t.sizeY) (construct noLines 240 320 wired.params wired.env) = some 320 := by decide

/-- R61: the spec's own example line, and the construction it writes. -/
theorem test_assembler :
    asm (.setPixels 0 0 1 1 [0xF800, 0x07E0]) = "SET_PIXELS 0, 0, 1, 1, [63488, 2016]" ∧
    asm (.setTearingEffect .horizontalAndVertical) = "SET_TEARING_EFFECT HorizontalAndVertical" ∧
    asmNew true true true true 240 240 = "NEW rst=1 bl=1 dc=1 cs=1 size=240x240" := by decide

/-! ## Witnesses: the hypotheses of each statement, met together -/

theorem answersOk_dev (has : Straps) (program : List RegStep) : AnswersOk (dev has [] program) :=
  fun _ => rfl

/-- The hypotheses of every statement about a successful request of a live instance (XmitCmdSendsItsByte,
CommandRowsSendTheirByte, XmitDataSendsItsPayload, DataOnTheWireIsTheBytesOfItsFormat,
CommandOnTheWireIsItsByteTaggedCmd,
SetOrientationRecordsAndSends, SetScrollOffsetSendsCommandAndOffset, SetTearingEffectByMode,
InitRunsItsFourTransitions), with the lines present and absent. -/
theorem test_witness_live_and_ok :
    (wired.released = false ∧ AnswersOk wired) ∧ (bare.released = false ∧ AnswersOk bare) ∧
    Instr.command? .nop = some .nop ∧ Instr.command? .nvgamctrl = some .nvgamctrl :=
  ⟨⟨rfl, answersOk_dev _ _⟩, ⟨rfl, answersOk_dev _ _⟩, rfl, rfl⟩

/-- EncodeThenDecodeGivesTheInstruction. -/
theorem test_witness_wellFormed :
    WellFormed (.setTearingEffect .horizontalAndVertical) ∧ WellFormed (.xmitData (.u16be [1])) := by
  decide

/-- UnusedRequestFieldsAreIgnored, each clause: two different words that agree where the clause asks. -/
theorem test_witness_unused_fields :
    (reqOp 0x000000000000000000 = reqOp 0x0FFFFFFFFFFFFFFFFF ∧ reqOp 0x0FFFFFFFFFFFFFFFFF = 0x0) ∧
    (reqOp 0x900000000000000000 = reqOp 0x9FFFFFFFFFFFFFFFFF ∧ reqOp 0x9FFFFFFFFFFFFFFFFF = 0x9) ∧
    (reqOp 0x1FFFFFFFFFFFFFFFFF = reqOp 0x100003000000000000 ∧ reqOp 0x1FFFFFFFFFFFFFFFFF = 0x1 ∧
      (reqA0 0x1FFFFFFFFFFFFFFFFF).extractLsb' 0 2 = (reqA0 0x100003000000000000).extractLsb' 0 2) ∧
    (reqOp 0x7FFFFEFFFFFFFFFFFF = reqOp 0x700002000000000000 ∧ reqOp 0x7FFFFEFFFFFFFFFFFF = 0x7 ∧
      (reqA0 0x7FFFFEFFFFFFFFFFFF).extractLsb' 0 2 = (reqA0 0x700002000000000000).extractLsb' 0 2) ∧
    (reqOp 0x8FFFFFFFFFFFFFFFFF = reqOp 0x800001000000000000 ∧ reqOp 0x8FFFFFFFFFFFFFFFFF = 0x8 ∧
      (reqA0 0x8FFFFFFFFFFFFFFFFF).extractLsb' 0 1 = (reqA0 0x800001000000000000).extractLsb' 0 1) ∧
    (reqOp 0xAFFF2CFFFFFFFFFFFF = reqOp 0xA0002C000000000000 ∧ reqOp 0xAFFF2CFFFFFFFFFFFF = 0xA ∧
      (reqA0 0xAFFF2CFFFFFFFFFFFF).extractLsb' 0 8 = (reqA0 0xA0002C000000000000).extractLsb' 0 8) ∧
    (reqOp 0x6F0050FFFFFFFFFFFF = reqOp 0x600050000000000000 ∧ reqOp 0x6F0050FFFFFFFFFFFF = 0x6 ∧
      reqA0 0x6F0050FFFFFFFFFFFF = reqA0 0x600050000000000000) := by decide

/-- The same statement, the clauses with several operand slots and those with a payload. -/
theorem test_witness_unused_fields_slots :
    (reqOp 0x3F00050007F800FFFF = reqOp 0x3000050007F8000000 ∧ reqOp 0x3F00050007F800FFFF = 0x3 ∧
      reqA0 0x3F00050007F800FFFF = reqA0 0x3000050007F8000000 ∧
      reqA1 0x3F00050007F800FFFF = reqA1 0x3000050007F8000000 ∧
      reqA2 0x3F00050007F800FFFF = reqA2 0x3000050007F8000000) ∧
    (reqOp 0x2F0000000000EF00EF = reqOp 0x200000000000EF00EF ∧ reqOp 0x2F0000000000EF00EF = 0x2 ∧
      reqA0 0x2F0000000000EF00EF = reqA0 0x200000000000EF00EF ∧
      reqA1 0x2F0000000000EF00EF = reqA1 0x200000000000EF00EF ∧
      reqA2 0x2F0000000000EF00EF = reqA2 0x200000000000EF00EF ∧
      reqA3 0x2F0000000000EF00EF = reqA3 0x200000000000EF00EF) ∧
    (reqOp 0x4F0000000000010001 = reqOp 0x400000000000010001 ∧ reqOp 0x4F0000000000010001 = 0x4 ∧
      reqA0 0x4F0000000000010001 = reqA0 0x400000000000010001 ∧
      reqA1 0x4F0000000000010001 = reqA1 0x400000000000010001 ∧
      reqA2 0x4F0000000000010001 = reqA2 0x400000000000010001 ∧
      reqA3 0x4F0000000000010001 = reqA3 0x400000000000010001) ∧
    (reqOp 0xBF00000000000000FF = reqOp 0xB70000000000000000 ∧ reqOp 0xBF00000000000000FF = 0xB ∧
      reqFmt 0xBF00000000000000FF = reqFmt 0xB70000000000000000) := by decide

/-- ReservedEncodingsAreRefused, at the boundary operation 0xC, at 0xF, and for mode 3. -/
theorem test_witness_reserved :
    ((bare.placeRequest (.req 0xC00000000000000000 (.bytes []))).requests =
        .req 0xC00000000000000000 (.bytes []) :: [] ∧ 12 ≤ (reqOp 0xC00000000000000000).toNat) ∧
    12 ≤ (reqOp 0xF00000000000000000).toNat ∧
    (reqOp 0x700003000000000000 = 0x7 ∧ (reqA0 0x700003000000000000).extractLsb' 0 2 = 3) := by decide

/-- StepRunsTheDecodedRequest, its three clauses. -/
theorem test_witness_step :
    ((bare.placeRequest (.cmd8 0x2A)).requests = .cmd8 0x2A :: [] ∧ decode (.cmd8 0x2A) = .ok .caset) ∧
    ((bare.placeRequest (.cmd8 0x02)).requests = .cmd8 0x02 :: [] ∧
      decode (.cmd8 0x02) = .error .unassignedCommandByte) ∧ bare.requests = [] := by decide

/-- ReleaseIsTheOnlyTransitionOfTheLifecycle: a request that answers a next state, and a released state. -/
theorem test_witness_lifecycle :
    (∃ t, exec .release wired = .next t) ∧ (∃ t, exec (.xmitCmd 0) wired = .next t) ∧
    ({ wired with released := true } : State).released = true := ⟨⟨_, rfl⟩, ⟨_, rfl⟩, rfl⟩

/-- The same statement, its last clause: a request that decodes and one that does not, each at the port of
a released instance. -/
theorem test_witness_released_port :
    ({ wired with released := true, requests := [.cmd8 0x2A] } : State).requests = .cmd8 0x2A :: [] ∧
    decode (.cmd8 0x2A) = .ok .caset ∧
    ({ wired with released := true, requests := [.cmd8 0x02] } : State).requests = .cmd8 0x02 :: [] ∧
    decode (.cmd8 0x02) = .error .unassignedCommandByte := by decide

/-- MismatchedPayloadsAndUnassignedBytesAreRefused, each clause: the operations and formats of `u16`
elements beside bytes, those of `u8` elements beside half-words, and a byte of no row. -/
theorem test_witness_mismatched :
    (({ wired with requests := [.req 0xB50000000000000000 (.bytes [1])] } : State).requests =
        .req 0xB50000000000000000 (.bytes [1]) :: [] ∧
      reqOp 0xB50000000000000000 = 0xB ∧ reqFmt 0xB50000000000000000 = 5) ∧
    reqOp 0x400000000000010001 = 0x4 ∧ reqOp 0x500000000000010001 = 0x5 ∧
    (({ wired with requests := [.req 0xB40000000000000000 (.halves [1])] } : State).requests =
        .req 0xB40000000000000000 (.halves [1]) :: [] ∧
      reqOp 0xB40000000000000000 = 0xB ∧ reqFmt 0xB40000000000000000 = 4) ∧
    ∀ c : Command, c.tableByte ≠ 0x02 := by
  refine ⟨by decide, by decide, by decide, by decide, fun c => ?_⟩
  cases c <;> decide

/-- RefusedExactlyWhereTheRuleSays, CoordinateOverflowIsRefused, SetAddressWindowSendsShiftedCoordinates,
SetPixelSendsWindowAndColour, SetPixelsStreamsItsColours: sums of 65535 and of 65536 on each axis. -/
theorem test_witness_window_bounds :
    (¬ WindowOverflows { wired with xStart := 80 } 0 0 65455 65535 ∧
      WindowOverflows { wired with xStart := 80 } 0 0 65456 65535) ∧
    (¬ WindowOverflows { wired with yStart := 80 } 65535 65455 0 0 ∧
      WindowOverflows { wired with yStart := 80 } 65535 65456 0 0) ∧
    (¬ WindowOverflows wired 5 7 5 7 ∧ WindowOverflows { wired with xStart := 1 } 65535 0 65535 0) := by
  refine ⟨⟨?_, ?_⟩, ⟨?_, ?_⟩, ?_, ?_⟩ <;> simp [WindowOverflows, wired, dev, constructed]

/-- RefusedExactlyWhereTheRuleSays and OptionalLinesAreTolerated: a refused and a permitted instruction. -/
theorem test_witness_refused_by_rule :
    RefusedByRule wired (.setTearingEffect .reserved) ∧ ¬ RefusedByRule wired (.setTearingEffect .off) ∧
    ¬ RefusedByRule wired .init ∧ RefusedByRule { wired with released := true } .init := by
  simp [RefusedByRule, wired, dev, constructed]

/-- OptionalLinesAreTolerated: all its hypotheses for a blit of the right length on a bare instance. -/
theorem test_witness_optional_lines :
    AnswersOk bare ∧ ¬ RefusedByRule bare (.blitPixels 0 0 1 1 [1, 2]) ∧
    ([1, 2] : List U8).length = (1 : U16).toNat * (1 : U16).toNat * 2 := by
  refine ⟨answersOk_dev _ _, ?_, rfl⟩
  simp [RefusedByRule, BlitRefused, WindowOverflows, bare, dev, constructed]

/-- BlitPixelsSendsItsBufferInOneWrite: a window that ends at the last 16-bit coordinate. -/
theorem test_witness_blit :
    wired.released = false ∧ AnswersOk wired ∧
    ([1, 2] : List U8).length = (1 : U16).toNat * (1 : U16).toNat * 2 ∧
    ¬ BlitRefused wired 65535 65535 1 1 [1, 2] := by
  refine ⟨rfl, answersOk_dev _ _, rfl, ?_⟩
  simp [BlitRefused, WindowOverflows, wired, dev, constructed]

/-- BlitLengthMismatchMakesNoCall: one byte too few. -/
theorem test_witness_blit_length :
    wired.released = false ∧
    ([1] : List U8).length ≠ (1 : U16).toNat * (1 : U16).toNat * 2 := by decide

/-- BlitWithoutAWindowIsRefused: a zero extent, and an end of 65536. -/
theorem test_witness_blit_refused :
    wired.released = false ∧
    (([] : List U8).length = (0 : U16).toNat * (5 : U16).toNat * 2 ∧ (0 : U16) = 0) ∧
    (([1, 2, 3, 4] : List U8).length = (2 : U16).toNat * (1 : U16).toNat * 2 ∧ (2 : U16) ≠ 0 ∧
      (1 : U16) ≠ 0 ∧ 65536 ≤ (65535 : U16).toNat + (2 : U16).toNat - 1) := by decide

/-- ChunkingIsTransparent, EncoderMakesTheWritesOfItsFormat: a run of the encoder whose writes all
succeed, across a cut: the first write is of the full 32 bytes. -/
theorem test_witness_chunking :
    (encodeSource (.u8Iter (List.replicate 33 7)) bare).st.trace =
      bare.trace ++ [.bus (List.replicate 32 7) .ok, .bus [7] .ok] ∧
    (∀ e ∈ ([.bus (List.replicate 32 7) .ok, .bus [7] .ok] : List Event), e.failed = false) := by decide

/-- EncoderStopsAtTheFirstFailedWrite: a failing run of a byte and of a half-word iterator. -/
theorem test_witness_encoder_failure :
    (encodeSource (.u8Iter [1, 2]) (dev noLines [.fail 0] [])).err = some .busWriteFailed ∧
    (encodeSource (.u16beIter [1, 2]) (dev noLines [.fail 0] [])).err = some .busWriteFailed ∧
    (encodeSource (.u16leIter [1, 2]) (dev noLines [.fail 0] [])).err = some .busWriteFailed := by decide

/-- HostBufferAfterXmitData: the encoder not reached, and reached. -/
theorem test_witness_host_buffer :
    after State.lastResponse (exec (.xmitData (.u16be [1])) (dev csDc [.fail 0] [])) =
      some (some (.err .csFailed)) ∧
    after State.lastResponse (exec (.xmitData (.u16be [1])) (dev csDc [.ok, .fail 0] [])) =
      some (some (.err .dcFailed)) ∧
    after State.lastResponse (exec (.xmitData (.u16be [1])) (dev csDc [.ok, .ok, .fail 0] [])) =
      some (some (.err .busWriteFailed)) := by decide

/-- SendingAConvertedBufferAgainSwapsIt, its clauses for either native order. -/
theorem test_witness_converted_buffer :
    (bare.released = false ∧ AnswersOk bare ∧ bare.params.nativeOrder = .le) ∧
    (bareBig.released = false ∧ AnswersOk bareBig ∧ bareBig.params.nativeOrder = .be) :=
  ⟨⟨rfl, answersOk_dev _ _, rfl⟩, rfl, fun _ => rfl, rfl⟩

/-- CommandOnTheWireIsItsByteTaggedCmd, its clauses about a response: Ok and each error. -/
theorem test_witness_command_wire :
    after State.lastResponse (exec (.xmitCmd 1) (dev csDc [] [])) = some (some .ok) ∧
    after State.lastResponse (exec (.xmitCmd 1) (dev csDc [.fail 0] [])) =
      some (some (.err .csFailed)) ∧
    after State.lastResponse (exec (.xmitCmd 1) (dev csDc [.ok, .fail 0] [])) =
      some (some (.err .dcFailed)) ∧
    after State.lastResponse (exec (.xmitCmd 1) (dev csDc [.ok, .ok, .fail 0] [])) =
      some (some (.err .busWriteFailed)) := by decide

/-- NoByteOnTheWireIsUndefined: a coherent trace with a byte on the wire. -/
theorem test_witness_coherent_wire :
    ∃ t, exec (.xmitCmd 1) (dev csDc [] []) = .next t ∧ TraceCoherent t ∧
      t.wireView = [.byte .cmd 1] := ⟨_, rfl, ⟨rfl, rfl⟩, rfl⟩

/-- A state of CommandTransmissionByPlaceOfFailure with the given answers and parameter. -/
def failing (script : List Answer) (release : Bool) : State :=
  { dev csDc script [] with
    params := { (dev csDc script []).params with csReleaseOnAssertFail := release } }

/-- CommandTransmissionByPlaceOfFailure, its five clauses; EveryTransmissionDeassertsChipSelectOnce. -/
theorem test_witness_places_of_failure :
    ((failing [] true).released = false ∧ (failing [] true).has.cs = true ∧
      (failing [] true).has.dc = true ∧ (failing [] true).params.csReleaseOnAssertFail = true ∧
      (failing [] true).env.answer 0 = .ok ∧ (failing [] true).env.answer 1 = .ok ∧
      (failing [] true).env.answer 2 = .ok) ∧
    ((failing [.fail 0] true).env.answer 0 ≠ .ok ∧
      (failing [.fail 0] true).params.csReleaseOnAssertFail = true) ∧
    ((failing [.fail 0] false).env.answer 0 ≠ .ok ∧
      (failing [.fail 0] false).params.csReleaseOnAssertFail = false) ∧
    ((failing [.ok, .fail 0] true).env.answer 0 = .ok ∧ (failing [.ok, .fail 0] true).env.answer 1 ≠ .ok) ∧
    ((failing [.ok, .ok, .fail 0] true).env.answer 1 = .ok ∧
      (failing [.ok, .ok, .fail 0] true).env.answer 2 ≠ .ok) := by decide

/-- SetOrientationWritesRegistersOnlyOnSuccess: both responses. -/
theorem test_witness_setOrientation :
    after State.lastResponse (exec (.setOrientation .o2) wired) = some (some .ok) ∧
    after State.lastResponse (exec (.setOrientation .o2) (dev allLines [.fail 0] [])) =
      some (some (.err .csFailed)) := by decide

/-- OrientationOffsetTable, at both ends of the bound, for both axis assignments. -/
theorem test_witness_sizes :
    (0 : U16).toNat ≤ 320 ∧ (320 : U16).toNat ≤ 320 ∧
    OffsetAxis.o2ShiftsY_o3ShiftsX ≠ OffsetAxis.o2ShiftsX_o3ShiftsY := by decide

/-- SetBacklightDrivesTheLine, its three clauses. -/
theorem test_witness_backlight :
    wired.released = false ∧ ((BacklightState.on = .on ∧ Drive.high = .high) ∨ False) ∧
    (wired.has.bl = true ∧ wired.env.answer 0 = .ok) ∧
    ((dev allLines [.fail 7] []).has.bl = true ∧ (dev allLines [.fail 7] []).env.answer 0 = .fail 7) ∧
    bare.has.bl = false := by decide

/-- ReleaseSetsTheFlagAndMakesNoCall. -/
theorem test_witness_release : wired.released = false := rfl

/-- InitPhaseFollowsItsResponse: both responses; InitEventCount. -/
theorem test_witness_init :
    after State.lastResponse (exec .init wired) = some (some .ok) ∧
    after State.lastResponse (exec .init (dev allLines [.fail 1] [])) = some (some (.err (.pin 1))) ∧
    (∃ t, exec .init wired = .next t) ∧ AnswersOk wired :=
  ⟨by decide, by decide, ⟨_, rfl⟩, answersOk_dev _ _⟩

/-- BusWritesAreMadeInsideTheirBracket: a transmission's trace taken apart at its bus write. -/
theorem test_witness_inside_bracket :
    (xmit .data (.u8 [1]) wired).st.trace =
      wired.trace ++ ([csLow, dcHigh] ++ .bus [1] .ok :: [csHigh]) ∧
    wired.has.dc = true ∧ wired.has.cs = true := by decide

/-- FirstFailureDecidesTheResponse, ErrorKindsByRequest, ThePastDecidesNothing, TraceRecordsTheEnvironmentsAnswers,
RegistersHaveOneWriter, DelaysAndPowerLinesBelongToInitAndBacklight: requests that answer a next state, one
of them an error. -/
theorem test_witness_exec_next :
    (∃ t, exec .init wired = .next t) ∧
    (∃ t, exec (.xmitCmd 0) (dev csDc [.fail 0] []) = .next t ∧
      t.responses = (dev csDc [.fail 0] []).responses ++ [.err .csFailed]) ∧
    (∃ t es, exec (.setBacklight .on) wired = .next t ∧ t.trace = wired.trace ++ es) :=
  ⟨⟨_, rfl⟩, ⟨_, rfl, rfl⟩, ⟨_, _, rfl, rfl⟩⟩

/-- RegistersHaveOneWriter: each register does change under its writer. -/
theorem test_witness_writers :
    after (fun t => decide (t.phase ≠ wired.phase)) (exec .init wired) = some true ∧
    after (fun t => decide (t.orientation ≠ wired.orientation)) (exec (.setOrientation .o2) wired) =
      some true := by decide

/-- TransmittingRequestsFrame, one of each shape. -/
theorem test_witness_transmitting :
    (∃ t, exec (.setAddressWindow 0 0 1 1) wired = .next t) ∧ (∃ t, exec (.setPixel 0 0 1) wired = .next t) ∧
    (∃ t, exec (.setScrollOffset 1) wired = .next t) ∧
    (∃ t, exec (.setTearingEffect .off) wired = .next t) ∧ (∃ t, exec (.xmitCmd 1) wired = .next t) ∧
    (∃ t, exec .nop wired = .next t) ∧ Instr.command? .nop = some .nop :=
  ⟨⟨_, rfl⟩, ⟨_, rfl⟩, ⟨_, rfl⟩, ⟨_, rfl⟩, ⟨_, rfl⟩, ⟨_, rfl⟩, rfl⟩

/-- PayloadRequestsFrame and DataRequestsGiveTheirBufferBack, one of each shape; and for the latter a
request that carries no payload. -/
theorem test_witness_payload :
    (∃ t, exec (.setPixels 0 0 1 1 [1]) wired = .next t) ∧
    (∃ t, exec (.blitPixels 0 0 1 1 [1, 2]) wired = .next t) ∧
    (∃ t es, exec (.xmitData (.u8Iter [1])) wired = .next t ∧ t.trace = wired.trace ++ es) ∧
    (∃ t es, exec (.xmitData (.u16leIter [1])) wired = .next t ∧ t.trace = wired.trace ++ es) ∧
    IsDataRequest (.xmitData (.u8Iter [1])) ∧ ¬ IsDataRequest .init :=
  ⟨⟨_, rfl⟩, ⟨_, rfl⟩, ⟨_, _, rfl, rfl⟩, ⟨_, _, rfl, rfl⟩, .inr (.inr ⟨_, rfl⟩), by
    rintro (⟨_, _, _, _, _, h⟩ | ⟨_, _, _, _, _, h⟩ | ⟨_, h⟩) <;> cases h⟩

/-- RegisterWritingRequestsFrame, its three clauses. -/
theorem test_witness_register_writing :
    (∃ t, exec (.setOrientation .o1) wired = .next t) ∧ (∃ t, exec .init wired = .next t) ∧
    (∃ t, exec (.setBacklight .off) wired = .next t) := ⟨⟨_, rfl⟩, ⟨_, rfl⟩, ⟨_, rfl⟩⟩

/-- StepKeepsConfiguration, OffsetsAreNeverStale, StepKeepsRegistersCoherent, StepKeepsTraceCoherent: a
coherent state from which a step answers a next state. -/
theorem test_witness_step_next :
    (∃ t, step (wired.placeRequest (.req 0x100002000000000000 (.bytes []))) = .next t) ∧
    RegistersCoherent (wired.placeRequest (.req 0x100002000000000000 (.bytes []))) ∧
    TraceCoherent (wired.placeRequest (.req 0x100002000000000000 (.bytes []))) := by
  refine ⟨⟨_, rfl⟩, ⟨by decide, rfl, .inl rfl, rfl, rfl, ?_, by decide⟩, ⟨rfl, rfl⟩⟩
  intro l _; cases l <;> rfl

/-- OffsetsAreNeverStale, third clause: an orientation that moves an offset. -/
theorem test_witness_offsets_change :
    after (fun t => decide (t.yStart ≠ wired.yStart)) (exec (.setOrientation .o2) wired) = some true := by
  decide

/-- CompositeEqualsItsExpansion: a composite that is not refused. -/
theorem test_witness_composite :
    ¬ RefusedByRule wired (.setPixel 5 7 1) ∧ ¬ RefusedByRule wired (.blitPixels 0 0 1 1 [1, 2]) ∧
    ([1, 2] : List U8).length = (1 : U16).toNat * (1 : U16).toNat * 2 := by
  refine ⟨?_, ?_, rfl⟩ <;>
    simp [RefusedByRule, BlitRefused, WindowOverflows, wired, dev, constructed]

/-- ConstructionIsCoherent, ConstructionLeavesTheResetValues, OffsetsAreNeverStale: the bound at 320 and
321. -/
theorem test_witness_construction :
    (∃ s, construct allLines 240 320 wired.params wired.env = .next s) ∧
    320 < (321 : U16).toNat ∧ (320 : U16).toNat ≤ 320 := ⟨⟨_, rfl⟩, by decide, by decide⟩

end Sys2Proof.Tests
end

section
/-! What a step does to the records of a run (00_scope.md R8, R9): the trace stays coherent, it holds the
environment's answers, and a data request gives its buffer back. -/

namespace Sys2Proof.Machine

/-! ## The trace -/

/-- Calls made as the bracket allows, with the latches they leave, extend a coherent trace. -/
theorem TraceCoherent.append_calls {s t : State} {es : List Event} (hs : TraceCoherent s)
    (htrace : t.trace = s.trace ++ es) (hlvl : t.lvl = latchesAfter s.lvl es)
    (hhas : t.has = s.has) (hcalls : callsAllowed s.has s.lvl es = true) : TraceCoherent t where
  latches := by rw [hlvl, htrace, latchesAfter_append, ← hs.latches]
  calls := by rw [hhas, htrace, callsAllowed_append, ← hs.latches, hs.calls, hcalls]; rfl

/-- Taking a request from the port is no call. -/
theorem TraceCoherent.setRequests {s : State} (hs : TraceCoherent s) (rs : List Request) :
    TraceCoherent (s.setRequests rs) :=
  ⟨hs.latches, hs.calls⟩

theorem exec_keeps_traceCoherent {i : Instr} {s t : State} (hs : TraceCoherent s)
    (h : exec i s = .next t) : TraceCoherent t := by
  obtain ⟨es, err, hd⟩ := exec_does i s t h
  exact hs.append_calls hd.trace hd.lvl hd.has hd.allowed

/-- Settles O56: an idle step changes nothing, and every instruction's calls extend a coherent trace. -/
theorem stepKeepsTraceCoherent : Obligations.StepKeepsTraceCoherent := by
  intro s t hs h
  obtain rfl | ⟨i, r, rest, -, -, hexec⟩ := step_next h
  · exact hs
  · exact exec_keeps_traceCoherent (hs.setRequests rest) hexec

/-- Settles O44: these are four of the facts `exec_does` gives for every instruction. -/
theorem traceRecordsTheEnvironmentsAnswers : Obligations.TraceRecordsTheEnvironmentsAnswers := by
  intro i s t h
  obtain ⟨es, err, hd⟩ := exec_does i s t h
  exact ⟨es, _, hd.trace, hd.env, hd.lvl, hd.resp⟩

/-! ## The host's buffer -/

/-- The lent buffer, its count of consumed elements and the record of buffers given back are as before. -/
structure KeepsBuffer (s t : State) : Prop where
  returned : t.returned = s.returned
  payload : t.payload = s.payload
  consumed : t.consumed = s.consumed

/-- The record of buffers given back is no part of what a run of calls writes. -/
theorem Does.returned {P : Event → Prop} {X : Err → Prop} {s : State} {r : Run} (h : Does P X s r) :
    r.st.returned = s.returned := by
  obtain ⟨es, hemits, -⟩ := h
  exact hemits.returned

/-- Responding to a quiet run leaves the host's buffer alone. -/
theorem keepsBuffer_of_run {P : Event → Prop} {X : Err → Prop} {s t : State} {r : Run}
    (hd : Does P X s r) (hq : QuietButPhase s r.st) (h : respond r = .next t) : KeepsBuffer s t := by
  obtain rfl := next_inj h
  exact ⟨hd.returned, hq.payload, hq.consumed⟩

/-- A data request's response adds the buffer, as the run left it, to the record. -/
theorem respondLent_returned {s t : State} {r : Run} (hr : r.st.returned = s.returned)
    (h : respondLent r = .next t) :
    t.returned = s.returned ++ [{ buffer := t.payload, consumed := t.consumed }] := by
  obtain rfl := next_inj h
  simp [State.giveBack, State.pushResponse, hr]

/-- A pixel request whose data is a byte slice reads nothing from the lent buffer. -/
theorem sendPixels_u8_quiet (sx sy ex ey : U16) (p : List U8) (s : State) :
    Quiet s (sendPixels sx sy ex ey (.u8 p) s).st := by
  obtain ⟨k, -, hq⟩ | ⟨u, es, -, hq, hx⟩ := sendPixels_cases sx sy ex ey (.u8 p) s
  · exact hq
  · rw [hx]; exact hq.trans (xmitU8_quiet .data p u)

theorem xmitTearingFlag_does (flag : U8) (s : State) :
    Does IsXmitEvent NoOwnError s (xmitTearingFlag flag s) :=
  (xmitCommand_does .teon s).andThen fun t _ _ => xmitData_u8_does _ t

theorem xmitTearingFlag_quiet (flag : U8) (s : State) : Quiet s (xmitTearingFlag flag s).st :=
  (xmitCommand_quiet .teon s).andThen fun t => xmitData_u8_quiet _ t

/-- The failure edge of INIT writes at most the phase. -/
theorem unpoweredOnError_quiet (r : Run) : QuietButPhase r.st (unpoweredOnError r).st := by
  unfold unpoweredOnError
  split
  · exact (Quiet.refl r.st).butPhase
  · exact setPhase_quiet r.st .unpowered

theorem execSetOrientation_keepsBuffer {o : Orientation} {s t : State}
    (h : exec (.setOrientation o) s = .next t) : KeepsBuffer s t := by
  have hr := (sendOrientation_does o s).returned
  have hq := sendOrientation_quiet o s
  obtain ⟨-, ⟨k, -, rfl⟩ | ⟨-, rfl⟩⟩ := execSetOrientation_next h
  · exact ⟨hr, hq.payload, hq.consumed⟩
  · exact ⟨hr, hq.payload, hq.consumed⟩

theorem execSetTearingEffect_keepsBuffer {mode : TearingMode} {s t : State}
    (h : exec (.setTearingEffect mode) s = .next t) : KeepsBuffer s t := by
  obtain ⟨-, h⟩ := ifLive_next h
  cases mode with
  | off => exact keepsBuffer_of_run (xmitCommand_does _ s) (xmitCommand_quiet _ s).butPhase h
  | vertical =>
    exact keepsBuffer_of_run (xmitTearingFlag_does _ s) (xmitTearingFlag_quiet _ s).butPhase h
  | horizontalAndVertical =>
    exact keepsBuffer_of_run (xmitTearingFlag_does _ s) (xmitTearingFlag_quiet _ s).butPhase h
  | reserved => cases h

theorem execSetBacklight_keepsBuffer {b : BacklightState} {s t : State}
    (h : exec (.setBacklight b) s = .next t) : KeepsBuffer s t := by
  obtain ⟨-, h⟩ := ifLive_next h
  refine keepsBuffer_of_run (setBacklight_does b s) (Quiet.butPhase ?_) h
  cases s.has.bl with
  | false => exact Quiet.refl s
  | true => exact drivePinThenWait_quiet ..

/-- A request that carries no payload leaves the host's buffer and the record alone. -/
theorem exec_keepsBuffer {i : Instr} {s t : State} (hi : ¬ IsDataRequest i)
    (h : exec i s = .next t) : KeepsBuffer s t := by
  cases i with
  | init =>
    obtain ⟨-, h⟩ := ifLive_next h
    exact keepsBuffer_of_run (unpoweredOnError_does (initSequence_does s))
      ((initSequence_quiet s).trans (unpoweredOnError_quiet _)) h
  | setOrientation o => exact execSetOrientation_keepsBuffer h
  | setAddressWindow sx sy ex ey =>
    obtain ⟨-, h⟩ := ifLive_next h
    exact keepsBuffer_of_run (sendWindow_does ..) (sendWindow_quiet ..).butPhase
      (ifWindowFits_next h)
  | setPixel x y color =>
    obtain ⟨-, h⟩ := ifLive_next h
    exact keepsBuffer_of_run (sendPixels_does ..) (sendPixels_u8_quiet ..).butPhase
      (ifWindowFits_next h)
  | setPixels sx sy ex ey colors => exact absurd (.inl ⟨sx, sy, ex, ey, colors, rfl⟩) hi
  | blitPixels sx sy dx dy data => exact absurd (.inr (.inl ⟨sx, sy, dx, dy, data, rfl⟩)) hi
  | setScrollOffset offset =>
    obtain ⟨-, h⟩ := ifLive_next h
    exact keepsBuffer_of_run
      ((xmitCommand_does _ s).andThen fun u _ _ => xmitData_u8_does _ u)
      ((xmitCommand_quiet _ s).andThen fun u => xmitData_u8_quiet _ u).butPhase h
  | setTearingEffect mode => exact execSetTearingEffect_keepsBuffer h
  | setBacklight b => exact execSetBacklight_keepsBuffer h
  | release =>
    obtain ⟨-, h⟩ := ifLive_next h
    obtain rfl := next_inj h
    exact ⟨rfl, rfl, rfl⟩
  | xmitCmd c =>
    obtain ⟨-, h⟩ := ifLive_next h
    exact keepsBuffer_of_run (xmitU8_does ..) (xmitU8_quiet ..).butPhase h
  | xmitData src => exact absurd (.inr (.inr ⟨src, rfl⟩)) hi
  | _ =>
    obtain ⟨-, h⟩ := ifLive_next h
    exact keepsBuffer_of_run (xmitCommand_does _ s) (xmitCommand_quiet _ s).butPhase h

/-- A data request adds its buffer to the record, whatever it responds. -/
theorem exec_givesBufferBack {i : Instr} {s t : State} (hi : IsDataRequest i)
    (h : exec i s = .next t) :
    t.returned = s.returned ++ [{ buffer := t.payload, consumed := t.consumed }] := by
  obtain ⟨sx, sy, ex, ey, colors, rfl⟩ | ⟨sx, sy, dx, dy, data, rfl⟩ | ⟨src, rfl⟩ := hi
  · obtain ⟨-, h⟩ := ifLive_next h
    have hd := sendPixels_does sx sy ex ey (.u16beIter colors) (s.lend (.halves colors))
    exact respondLent_returned hd.returned (ifWindowFits_next h)
  · obtain ⟨-, ⟨-, rfl⟩ | ⟨-, h⟩⟩ := execBlitPixels_next h
    · rfl
    · exact respondLent_returned (sendPixels_does _ _ _ _ _ (s.lend (.bytes data))).returned h
  · obtain ⟨-, h⟩ := ifLive_next h
    exact respondLent_returned (xmit_does _ _ (s.lend src.payload)).returned h

/-- Settles O47: one lemma for the three data requests, one for every other instruction. -/
theorem dataRequestsGiveTheirBufferBack : Obligations.DataRequestsGiveTheirBufferBack := by
  intro i s t h
  refine ⟨fun hi => exec_givesBufferBack hi h, fun hi => ?_⟩
  have hk := exec_keepsBuffer hi h
  exact ⟨hk.returned, hk.payload, hk.consumed⟩

end Sys2Proof.Machine
end

section
/-! What an instruction leaves unchanged (10_state.md R23), by the six kinds of instruction: the frames of
each kind, and from them the single writers of the registers. -/

namespace Sys2Proof.Machine

/-! ## Lines that are not driven -/

/-- A line that no call drives keeps its latch (R17). -/
theorem latchesAfter_get_of_undriven {es : List Event} {l : Line}
    (h : ∀ v a, Event.pin l v a ∉ es) (lv : Latches) : (latchesAfter lv es).get l = lv.get l := by
  induction es generalizing lv with
  | nil => rfl
  | cons e es ih =>
    rw [latchesAfter_cons, ih fun v a hm => h v a (List.mem_cons_of_mem e hm)]
    cases e with
    | pin m v a => exact Latches.get_set_ne lv _ fun hlm => h v a (by simp [hlm])
    | bus bs a => rfl
    | delay n => rfl

/-- Allowed calls never drive an absent line (00_scope.md R8). -/
theorem undriven_of_absent {has : Straps} {lv : Latches} {es : List Event} {l : Line}
    (h : callsAllowed has lv es = true) (hl : has.get l = false) : ∀ v a, Event.pin l v a ∉ es := by
  induction es generalizing lv with
  | nil => simp
  | cons e es ih =>
    simp only [callsAllowed, Bool.and_eq_true] at h
    obtain ⟨hcall, hcalls⟩ := h
    intro v a hm
    rcases List.mem_cons.1 hm with rfl | hm
    · simp [callAllowed, hl] at hcall
    · exact ih hcalls v a hm

/-- Transmissions leave the latches of RST and BL alone. -/
theorem latchesAfter_xmitEvents {es : List Event} (h : ∀ e ∈ es, IsXmitEvent e) (lv : Latches) :
    (latchesAfter lv es).rst = lv.rst ∧ (latchesAfter lv es).bl = lv.bl :=
  ⟨latchesAfter_get_of_undriven (l := .rst) (fun _ _ hm => h _ hm) lv,
    latchesAfter_get_of_undriven (l := .bl) (fun _ _ hm => h _ hm) lv⟩

/-- SET_BACKLIGHT writes no latch but that of BL. -/
theorem latchesAfter_backlightEvents {es : List Event} (h : ∀ e ∈ es, IsBacklightEvent e)
    (lv : Latches) : latchesAfter lv es = { lv with bl := (latchesAfter lv es).bl } := by
  have hrst := latchesAfter_get_of_undriven (l := .rst) (fun _ _ hm => h _ hm) lv
  have hdc := latchesAfter_get_of_undriven (l := .dc) (fun _ _ hm => h _ hm) lv
  have hcs := latchesAfter_get_of_undriven (l := .cs) (fun _ _ hm => h _ hm) lv
  calc latchesAfter lv es
      = { rst := (latchesAfter lv es).get .rst, bl := (latchesAfter lv es).bl,
          dc := (latchesAfter lv es).get .dc, cs := (latchesAfter lv es).get .cs } := rfl
    _ = { lv with bl := (latchesAfter lv es).bl } := by rw [hrst, hdc, hcs]; rfl

/-! ## Runs that touch no register -/

/-- A request that runs, touching no buffer, and responds. -/
theorem Emits.frame_of_quietButPhase {s u t : State} {es : List Event} {ρ : Response}
    (h : Emits s es u) (q : QuietButPhase s u) (ht : t = u.pushResponse ρ) :
    t = { s with trace := t.trace, responses := t.responses, env := t.env, lvl := t.lvl,
                 phase := t.phase } := by
  subst ht
  conv_lhs => rw [h.rest, q.payload, q.consumed, q.buf8, q.buf16]
  simp [State.pushResponse, h.responses]

theorem Emits.frame_of_quiet {s u t : State} {es : List Event} {ρ : Response} (h : Emits s es u)
    (q : Quiet s u) (ht : t = u.pushResponse ρ) :
    t = { s with trace := t.trace, responses := t.responses, env := t.env, lvl := t.lvl } := by
  have hphase : t.phase = s.phase := by rw [ht]; exact q.phase
  conv_lhs => rw [h.frame_of_quietButPhase q.butPhase ht, hphase]

/-! ## The requests that only transmit -/

/-- The requests that only transmit and take no payload (R23), the command rows among them (entry 1). -/
def IsTransmitting (i : Instr) : Prop :=
  (∃ sx sy ex ey, i = .setAddressWindow sx sy ex ey) ∨ (∃ x y c, i = .setPixel x y c) ∨
    (∃ v, i = .setScrollOffset v) ∨ (∃ m, i = .setTearingEffect m) ∨ (∃ c, i = .xmitCmd c) ∨
    (∃ c, i.command? = some c)

theorem execSetTearingEffect_transmits {mode : TearingMode} {s t : State}
    (h : exec (.setTearingEffect mode) s = .next t) :
    ∃ r, Does IsXmitEvent NoOwnError s r ∧ Quiet s r.st ∧ respond r = .next t := by
  obtain ⟨-, h⟩ := ifLive_next h
  cases mode with
  | off => exact ⟨_, xmitCommand_does _ s, xmitCommand_quiet _ s, h⟩
  | vertical => exact ⟨_, xmitTearingFlag_does _ s, xmitTearingFlag_quiet _ s, h⟩
  | horizontalAndVertical => exact ⟨_, xmitTearingFlag_does _ s, xmitTearingFlag_quiet _ s, h⟩
  | reserved => cases h

/-- Such a request is one quiet run of transmissions, and the response to it. -/
theorem exec_transmits {i : Instr} {s t : State} (hi : IsTransmitting i) (h : exec i s = .next t) :
    ∃ r, Does IsXmitEvent NoOwnError s r ∧ Quiet s r.st ∧ respond r = .next t := by
  obtain ⟨sx, sy, ex, ey, rfl⟩ | ⟨x, y, c, rfl⟩ | ⟨v, rfl⟩ | ⟨m, rfl⟩ | ⟨c, rfl⟩ | ⟨c, hc⟩ := hi
  · obtain ⟨-, h⟩ := ifLive_next h
    exact ⟨_, sendWindow_does .., sendWindow_quiet .., ifWindowFits_next h⟩
  · obtain ⟨-, h⟩ := ifLive_next h
    exact ⟨_, (sendPixels_does ..).mono (fun _ he => he) fun _ hk => ownError_u8 hk,
      sendPixels_u8_quiet .., ifWindowFits_next h⟩
  · obtain ⟨-, h⟩ := ifLive_next h
    exact ⟨_, (xmitCommand_does _ s).andThen fun u _ _ => xmitData_u8_does _ u,
      (xmitCommand_quiet _ s).andThen fun u => xmitData_u8_quiet _ u, h⟩
  · exact execSetTearingEffect_transmits h
  · obtain ⟨-, h⟩ := ifLive_next h
    exact ⟨_, xmitU8_does .., xmitU8_quiet .., h⟩
  · rw [exec_of_command hc] at h
    obtain ⟨-, h⟩ := ifLive_next h
    exact ⟨_, xmitCommand_does c s, xmitCommand_quiet c s, h⟩

/-- Settles O45: such a request is one quiet run of transmissions, which drive neither RST nor BL. -/
theorem transmittingRequestsFrame : Obligations.TransmittingRequestsFrame := by
  intro i s t hi h
  obtain ⟨r, ⟨es, hemits, -, hev, -⟩, hq, ht⟩ := exec_transmits hi h
  obtain rfl := next_inj ht
  exact ⟨hemits.frame_of_quiet hq rfl, by simpa [hemits.lvl] using latchesAfter_xmitEvents hev s.lvl⟩

/-! ## The requests that write a register -/

theorem execSetOrientation_frame {o : Orientation} {s t : State}
    (h : exec (.setOrientation o) s = .next t) :
    t = { s with trace := t.trace, responses := t.responses, env := t.env, lvl := t.lvl,
                 orientation := t.orientation, xStart := t.xStart, yStart := t.yStart } ∧
      t.lvl.rst = s.lvl.rst ∧ t.lvl.bl = s.lvl.bl := by
  obtain ⟨es, hemits, -, hev, -⟩ := sendOrientation_does o s
  have hq := sendOrientation_quiet o s
  have hlvl := latchesAfter_xmitEvents hev s.lvl
  obtain ⟨-, ⟨k, -, rfl⟩ | ⟨-, rfl⟩⟩ := execSetOrientation_next h
  · refine ⟨?_, by simpa [hemits.lvl] using hlvl⟩
    conv_lhs => rw [hemits.frame_of_quiet hq rfl]
    simp [hemits.orientation, hemits.xStart, hemits.yStart]
  · refine ⟨?_, by simpa [hemits.lvl] using hlvl⟩
    have hframe := hemits.frame_of_quiet hq (ρ := .ok) rfl
    exact congrArg (·.setAddressing o (offsets s.params.offsetAxis o s.sizeY)) hframe

theorem execInit_frame {s t : State} (h : exec .init s = .next t) :
    t = { s with trace := t.trace, responses := t.responses, env := t.env, lvl := t.lvl,
                 phase := t.phase } := by
  obtain ⟨-, h⟩ := ifLive_next h
  obtain ⟨es, hemits, -⟩ := unpoweredOnError_does (initSequence_does s)
  have hq := (initSequence_quiet s).trans (unpoweredOnError_quiet _)
  exact hemits.frame_of_quietButPhase hq (next_inj h).symm

/-- SET_BACKLIGHT is one quiet run of its own events, and the response to it. -/
theorem execSetBacklight_drives {b : BacklightState} {s t : State}
    (h : exec (.setBacklight b) s = .next t) :
    ∃ r, Does IsBacklightEvent NoOwnError s r ∧ Quiet s r.st ∧ respond r = .next t := by
  obtain ⟨-, h⟩ := ifLive_next h
  refine ⟨_, setBacklight_does b s, ?_, h⟩
  cases s.has.bl with
  | false => exact Quiet.refl s
  | true => exact drivePinThenWait_quiet ..

theorem execSetBacklight_frame {b : BacklightState} {s t : State}
    (h : exec (.setBacklight b) s = .next t) :
    t = { s with trace := t.trace, responses := t.responses, env := t.env,
                 lvl := { s.lvl with bl := t.lvl.bl } } := by
  obtain ⟨r, ⟨es, hemits, -, hev, -⟩, hq, ht⟩ := execSetBacklight_drives h
  obtain rfl := next_inj ht
  have hlvl : r.st.lvl = { s.lvl with bl := r.st.lvl.bl } := by
    rw [hemits.lvl]; exact latchesAfter_backlightEvents hev s.lvl
  conv_lhs => rw [hemits.frame_of_quiet hq rfl, State.pushResponse_lvl, hlvl]
  rfl

/-- Settles O48: the three frames, one for each request. -/
theorem registerWritingRequestsFrame : Obligations.RegisterWritingRequestsFrame :=
  fun _ _ => ⟨fun _ => execSetOrientation_frame, execInit_frame, fun _ => execSetBacklight_frame⟩

/-- RELEASE writes the flag and responds. -/
theorem execRelease_next {s t : State} (h : exec .release s = .next t) :
    t = (s.setReleased true).pushResponse .ok := by
  obtain ⟨-, h⟩ := ifLive_next h
  exact (next_inj h).symm

/-! ## The requests with a payload -/

/-- The source a data request lends and sends (R133, R134, R94). -/
inductive LendsSource : Instr → Source → Prop where
  | pixels (sx sy ex ey : U16) (colors : List U16) :
      LendsSource (.setPixels sx sy ex ey colors) (.u16beIter colors)
  | blit (sx sy dx dy : U16) (data : List U8) :
      LendsSource (.blitPixels sx sy dx dy data) (.u8 data)
  | data (src : Source) : LendsSource (.xmitData src) src

theorem IsDataRequest.lendsSource {i : Instr} (hi : IsDataRequest i) : ∃ src, LendsSource i src := by
  obtain ⟨sx, sy, ex, ey, colors, rfl⟩ | ⟨sx, sy, dx, dy, data, rfl⟩ | ⟨src, rfl⟩ := hi
  · exact ⟨_, .pixels ..⟩
  · exact ⟨_, .blit ..⟩
  · exact ⟨_, .data src⟩

/-- What a transmission of a lent source can leave in `t` of the buffers and the phase of `s`, reached or
not reached by the encoder. -/
structure LeavesLent (src : Source) (s t : State) : Prop where
  payload : t.payload = src.payload ∨ t.payload = payloadAfter s.params.nativeOrder src
  consumed : t.consumed ≤ consumedAfter src
  buf8 : t.buf8 = s.buf8 ∨ t.buf8 = [] ∧ ∃ p, src = .u8Iter p
  buf16 : t.buf16 = s.buf16 ∨ t.buf16 = [] ∧ ∃ p, src = .u16beIter p ∨ src = .u16leIter p
  phase : t.phase = s.phase

theorem buf8After_cases (s : State) (src : Source) :
    buf8After s src = s.buf8 ∨ buf8After s src = [] ∧ ∃ p, src = .u8Iter p := by
  cases src with
  | u8Iter p => exact .inr ⟨rfl, p, rfl⟩
  | _ => exact .inl rfl

theorem buf16After_cases (s : State) (src : Source) :
    buf16After s src = s.buf16 ∨
      buf16After s src = [] ∧ ∃ p, src = .u16beIter p ∨ src = .u16leIter p := by
  cases src with
  | u16beIter p => exact .inr ⟨rfl, p, .inl rfl⟩
  | u16leIter p => exact .inr ⟨rfl, p, .inr rfl⟩
  | _ => exact .inl rfl

/-- The encoder not reached: the source is as it was lent. -/
theorem Quiet.leavesLent {src : Source} {s t : State} (hq : Quiet s t)
    (hp : s.payload = src.payload) (hc : s.consumed = 0) : LeavesLent src s t where
  payload := .inl (hq.payload.trans hp)
  consumed := by rw [hq.consumed, hc]; exact Nat.zero_le _
  buf8 := .inl hq.buf8
  buf16 := .inl hq.buf16
  phase := hq.phase

theorem encodeSource_leavesLent {src : Source} {s : State} (hp : s.payload = src.payload)
    (hc : s.consumed = 0) : LeavesLent src s (encodeSource src s).st := by
  obtain ⟨hpayload, hbuf8, hbuf16, hphase, -, hconsumed⟩ := encodeSource_leaves src s hp
  exact
    { payload := .inr hpayload
      consumed := by simpa [hc] using hconsumed
      buf8 := by rw [hbuf8]; exact buf8After_cases s src
      buf16 := by rw [hbuf16]; exact buf16After_cases s src
      phase := hphase }

theorem LeavesLent.after_quiet {src : Source} {s u t : State} (h : LeavesLent src u t)
    (hq : Quiet s u) (hparams : u.params = s.params) : LeavesLent src s t where
  payload := by rw [← hparams]; exact h.payload
  consumed := h.consumed
  buf8 := by rw [← hq.buf8]; exact h.buf8
  buf16 := by rw [← hq.buf16]; exact h.buf16
  phase := h.phase.trans hq.phase

theorem LeavesLent.then_quiet {src : Source} {s u t : State} (h : LeavesLent src s u)
    (hq : Quiet u t) : LeavesLent src s t where
  payload := by rw [hq.payload]; exact h.payload
  consumed := by rw [hq.consumed]; exact h.consumed
  buf8 := by rw [hq.buf8]; exact h.buf8
  buf16 := by rw [hq.buf16]; exact h.buf16
  phase := hq.phase.trans h.phase

theorem xmit_leavesLent (kind : Kind) {src : Source} {s : State} (hp : s.payload = src.payload)
    (hc : s.consumed = 0) : LeavesLent src s (xmit kind src s).st := by
  obtain ⟨-, ⟨hq, -⟩ | ⟨u, hq, hparams, hq', -⟩⟩ := xmit_spec kind src s
  · exact hq.leavesLent hp hc
  · exact ((encodeSource_leavesLent (hq.payload.trans hp) (hq.consumed.trans hc)).after_quiet hq
      hparams).then_quiet hq'

theorem sendPixels_leavesLent (sx sy ex ey : U16) {src : Source} {s : State}
    (hp : s.payload = src.payload) (hc : s.consumed = 0) :
    LeavesLent src s (sendPixels sx sy ex ey src s).st := by
  obtain ⟨k, -, hq⟩ | ⟨u, es, hemits, hq, hx⟩ := sendPixels_cases sx sy ex ey src s
  · exact hq.leavesLent hp hc
  · rw [hx]
    exact (xmit_leavesLent .data (hq.payload.trans hp) (hq.consumed.trans hc)).after_quiet hq
      hemits.params

/-- An error raised before any call. -/
theorem raiseErr_does {P : Event → Prop} {X : Err → Prop} {k : Err} (hk : X k) (s : State) :
    Does P X s (raiseErr k s) :=
  ⟨[], Emits.nil s, .inr ⟨hk, clean_nil⟩, by simp, rfl, id⟩

/-- A data request is one run of transmissions from the state with its source lent, which leaves what a
transmission of the source can leave; then the buffer goes back with the response. -/
theorem exec_sendsLent {i : Instr} {src : Source} {s t : State} (hi : LendsSource i src)
    (h : exec i s = .next t) :
    ∃ r X, Does IsXmitEvent X (s.lend src.payload) r ∧
      LeavesLent src (s.lend src.payload) r.st ∧ respondLent r = .next t := by
  cases hi with
  | pixels sx sy ex ey colors =>
    obtain ⟨-, h⟩ := ifLive_next h
    exact ⟨_, _, sendPixels_does .., sendPixels_leavesLent _ _ _ _ rfl rfl, ifWindowFits_next h⟩
  | blit sx sy dx dy data =>
    obtain ⟨-, ⟨-, rfl⟩ | ⟨-, h⟩⟩ := execBlitPixels_next h
    · exact ⟨raiseErr s.params.eBlitLen _, fun _ => True, raiseErr_does trivial _,
        (Quiet.refl _).leavesLent rfl rfl, rfl⟩
    · exact ⟨_, _, sendPixels_does .., sendPixels_leavesLent _ _ _ _ rfl rfl, h⟩
  | data =>
    obtain ⟨-, h⟩ := ifLive_next h
    exact ⟨_, _, xmit_does .., xmit_leavesLent .data rfl rfl, h⟩

/-- What a data request writes (R23), and what it can leave there. -/
structure PayloadFrame (src : Source) (s t : State) : Prop where
  frame : t = { s with trace := t.trace, responses := t.responses, env := t.env, lvl := t.lvl,
                       payload := t.payload, consumed := t.consumed, returned := t.returned,
                       buf8 := t.buf8, buf16 := t.buf16 }
  rst : t.lvl.rst = s.lvl.rst
  bl : t.lvl.bl = s.lvl.bl
  lent : LeavesLent src s t

theorem exec_payloadFrame {i : Instr} {src : Source} {s t : State} (hi : LendsSource i src)
    (h : exec i s = .next t) : PayloadFrame src s t := by
  obtain ⟨r, X, ⟨es, hemits, -, hev, -⟩, hlent, ht⟩ := exec_sendsLent hi h
  obtain rfl : r.st.giveBack.pushResponse r.response = t := next_inj ht
  obtain ⟨hrst, hbl⟩ := latchesAfter_xmitEvents hev s.lvl
  refine ⟨?_, ?_, ?_, ⟨hlent.payload, hlent.consumed, hlent.buf8, hlent.buf16, hlent.phase⟩⟩
  · conv_lhs => rw [hemits.rest, hlent.phase]
    simp [State.giveBack, State.pushResponse, State.lend, hemits.responses, hemits.returned]
  · simpa [hemits.lvl] using hrst
  · simpa [hemits.lvl] using hbl

/-- What a transmission of a lent iterator has pulled from it went into bus writes (40_encoder.md R79). -/
theorem xmit_pulled (kind : Kind) {src : Source} {s : State} (hpull : pulledBytes src ≠ 0)
    (hc : s.consumed = 0) :
    ∃ es, (xmit kind src s).st.trace = s.trace ++ es ∧
      busCount es = pulledBytes src * (xmit kind src s).st.consumed := by
  obtain ⟨es, htrace, ⟨hq, hcount⟩ | ⟨u, ws, hq, hq', hws, hcount⟩⟩ := xmit_counts kind src s
  · exact ⟨es, htrace, by rw [hcount, hq.consumed, hc]; rfl⟩
  · obtain ⟨ws', hws', hpulled⟩ := encodeSource_counts src u hpull
    obtain rfl : ws = ws' := List.append_cancel_left (hws.symm.trans hws')
    rw [hq.consumed, hc] at hpulled
    exact ⟨es, htrace, by rw [hcount, hq'.consumed]; exact hpulled⟩

theorem execXmitData_pulled {src : Source} {s t : State} {es : List Event}
    (hpull : pulledBytes src ≠ 0) (h : exec (.xmitData src) s = .next t)
    (htrace : t.trace = s.trace ++ es) : busCount es = pulledBytes src * t.consumed := by
  obtain ⟨-, h⟩ := ifLive_next h
  obtain rfl := next_inj h
  obtain ⟨es', htrace', hcount⟩ := xmit_pulled .data (s := s.lend src.payload) hpull rfl
  obtain rfl : es = es' := List.append_cancel_left (htrace.symm.trans htrace')
  exact hcount

/-- Settles O46: each of the three requests leaves what a transmission of its source can leave. -/
theorem payloadRequestsFrame : Obligations.PayloadRequestsFrame := by
  intro i s t hi h
  obtain ⟨src, hsrc⟩ := hi.lendsSource
  obtain ⟨hframe, hrst, hbl, hlent⟩ := exec_payloadFrame hsrc h
  refine ⟨hframe, hrst, hbl, ?_⟩
  cases hsrc with
  | pixels sx sy ex ey colors =>
    refine ⟨.inl (hlent.buf8.resolve_right (by simp)), hlent.buf16.imp_right fun ⟨hbuf, _⟩ =>
      ⟨hbuf, .inr ⟨sx, sy, ex, ey, colors, rfl⟩⟩, ?_, by simp, by simp, by simp, by simp⟩
    rintro _ _ _ _ _ ⟨⟩
    exact ⟨hlent.payload.elim id id, hlent.consumed⟩
  | blit sx sy dx dy data =>
    refine ⟨.inl (hlent.buf8.resolve_right (by simp)), .inl (hlent.buf16.resolve_right (by simp)),
      by simp, ?_, by simp, by simp, by simp⟩
    rintro _ _ _ _ _ ⟨⟩
    exact ⟨hlent.payload.elim id id, Nat.le_zero.1 hlent.consumed⟩
  | data =>
    refine ⟨hlent.buf8.imp_right fun ⟨hbuf, p, hp⟩ => ⟨hbuf, p, by rw [hp]⟩,
      hlent.buf16.imp_right fun ⟨hbuf, p, hp⟩ =>
        ⟨hbuf, .inl ⟨p, hp.imp (congrArg _) (congrArg _)⟩⟩, by simp, by simp, ?_, ?_, ?_⟩
    · rintro _ ⟨⟩
      exact ⟨hlent.payload, hlent.consumed⟩
    · rintro es p ⟨⟩ htrace
      have hcount := execXmitData_pulled (by simp [pulledBytes]) h htrace
      simpa [busCount, pulledBytes] using hcount.symm
    · rintro es p (⟨⟨⟩⟩ | ⟨⟨⟩⟩) htrace <;>
        exact (execXmitData_pulled (by simp [pulledBytes]) h htrace).symm

/-! ## All instructions -/

/-- Every instruction is of one of the kinds whose frames stand above. -/
theorem instr_kinds (i : Instr) :
    i = .init ∨ (∃ o, i = .setOrientation o) ∨ (∃ b, i = .setBacklight b) ∨ i = .release ∨
      IsDataRequest i ∨ IsTransmitting i := by
  cases i with
  | init => exact .inl rfl
  | setOrientation o => exact .inr (.inl ⟨o, rfl⟩)
  | setBacklight b => exact .inr (.inr (.inl ⟨b, rfl⟩))
  | release => exact .inr (.inr (.inr (.inl rfl)))
  | setPixels sx sy ex ey colors =>
    exact .inr (.inr (.inr (.inr (.inl (.inl ⟨sx, sy, ex, ey, colors, rfl⟩)))))
  | blitPixels sx sy dx dy data =>
    exact .inr (.inr (.inr (.inr (.inl (.inr (.inl ⟨sx, sy, dx, dy, data, rfl⟩))))))
  | xmitData src => exact .inr (.inr (.inr (.inr (.inl (.inr (.inr ⟨src, rfl⟩))))))
  | _ =>
    refine .inr (.inr (.inr (.inr (.inr ?_))))
    simp [IsTransmitting, Instr.command?]

/-- The single writer of each register (R12 to R15), and a staging buffer that is as before or dead. -/
structure KeepsRegisters (i : Instr) (s t : State) : Prop where
  phase : i ≠ .init → t.phase = s.phase
  addressing : (∀ o, i ≠ .setOrientation o) →
    t.orientation = s.orientation ∧ t.xStart = s.xStart ∧ t.yStart = s.yStart
  released : i ≠ .release → t.released = s.released
  buf8 : t.buf8 = s.buf8 ∨ t.buf8 = []
  buf16 : t.buf16 = s.buf16 ∨ t.buf16 = []

theorem exec_keepsRegisters {i : Instr} {s t : State} (h : exec i s = .next t) :
    KeepsRegisters i s t := by
  obtain rfl | ⟨o, rfl⟩ | ⟨b, rfl⟩ | rfl | hi | hi := instr_kinds i
  · rw [execInit_frame h]
    exact ⟨fun hi => absurd rfl hi, fun _ => ⟨rfl, rfl, rfl⟩, fun _ => rfl, .inl rfl, .inl rfl⟩
  · rw [(execSetOrientation_frame h).1]
    exact ⟨fun _ => rfl, fun hi => absurd rfl (hi o), fun _ => rfl, .inl rfl, .inl rfl⟩
  · rw [execSetBacklight_frame h]
    exact ⟨fun _ => rfl, fun _ => ⟨rfl, rfl, rfl⟩, fun _ => rfl, .inl rfl, .inl rfl⟩
  · rw [execRelease_next h]
    exact ⟨fun _ => rfl, fun _ => ⟨rfl, rfl, rfl⟩, fun hi => absurd rfl hi, .inl rfl, .inl rfl⟩
  · obtain ⟨src, hsrc⟩ := hi.lendsSource
    obtain ⟨hframe, -, -, hlent⟩ := exec_payloadFrame hsrc h
    rw [hframe]
    exact ⟨fun _ => rfl, fun _ => ⟨rfl, rfl, rfl⟩, fun _ => rfl, hlent.buf8.imp_right And.left,
      hlent.buf16.imp_right And.left⟩
  · rw [(transmittingRequestsFrame i s t hi h).1]
    exact ⟨fun _ => rfl, fun _ => ⟨rfl, rfl, rfl⟩, fun _ => rfl, .inl rfl, .inl rfl⟩

/-- Settles O50: the contrapositive of what every other instruction keeps. -/
theorem registersHaveOneWriter : Obligations.RegistersHaveOneWriter := by
  intro i s t h
  have hk := exec_keepsRegisters h
  refine ⟨fun hphase => ?_, fun haddr => ?_⟩
  · by_contra hi
    exact hphase (hk.phase hi)
  · by_contra hi
    obtain ⟨ho, hx, hy⟩ := hk.addressing fun o ho => hi ⟨o, ho⟩
    exact haddr.elim (· ho) fun hxy => hxy.elim (· hx) (· hy)

end Sys2Proof.Machine
end

section
/-! What every step keeps: the configuration, the lifecycle of the flag `released` (R15, R163), the offsets
of the orientation (R13) and the coherence of the registers between requests. -/

namespace Sys2Proof.Machine

/-! ## The step -/

theorem step_of_decode {s : State} {r : Request} {rest : List Request} {i : Instr}
    (hs : s.requests = r :: rest) (hd : decode r = .ok i) :
    step s = exec i (s.setRequests rest) := by
  simp [step, runNextRequest, runRequest, hs, hd]

theorem step_of_undecodable {s : State} {r : Request} {rest : List Request} {e : DecodeError}
    (hs : s.requests = r :: rest) (hd : decode r = .error e) :
    step s = .refused (.undecodable e) := by
  simp [step, runNextRequest, runRequest, hs, hd]

/-- Settles O49: `exec_does` says for every instruction that it writes none of the four. -/
theorem stepKeepsConfiguration : Obligations.StepKeepsConfiguration := by
  intro s t h
  obtain rfl | ⟨i, r, rest, -, -, hexec⟩ := step_next h
  · exact ⟨rfl, rfl, rfl, rfl⟩
  · obtain ⟨es, err, hd⟩ := exec_does i _ t hexec
    exact ⟨hd.sizeX, hd.sizeY, hd.has, hd.params⟩

/-! ## The lifecycle -/

/-- Every instruction tests the flag first. -/
theorem exec_of_released {s : State} (h : s.released = true) (i : Instr) :
    exec i s = .refused .afterRelease := by
  cases i <;> exact ifLive_released h _

theorem exec_live {i : Instr} {s t : State} (h : exec i s = .next t) : s.released = false := by
  obtain ⟨es, err, hd⟩ := exec_does i s t h
  exact hd.live

theorem exec_releases_iff {i : Instr} {s t : State} (h : exec i s = .next t) :
    t.released = true ↔ i = .release := by
  constructor
  · intro hrel
    by_contra hi
    rw [(exec_keepsRegisters h).released hi, exec_live h] at hrel
    cases hrel
  · rintro rfl
    rw [execRelease_next h]
    rfl

/-- Settles O7: the flag is tested before an instruction does anything, and RELEASE alone writes it. -/
theorem releaseIsTheOnlyTransitionOfTheLifecycle :
    Obligations.ReleaseIsTheOnlyTransitionOfTheLifecycle := by
  refine ⟨fun _ _ _ _ _ => rfl, fun _ _ _ h => ⟨exec_live h, exec_releases_iff h⟩,
    fun i _ h => exec_of_released h i, fun s r rest hrel hs => ⟨fun i hd => ?_, fun e hd => ?_⟩⟩
  · rw [step_of_decode hs hd]
    exact exec_of_released (s := s.setRequests rest) hrel i
  · exact step_of_undecodable hs hd

/-! ## Orientation and offsets -/

/-- SET_ORIENTATION writes its three registers where it responds Ok, and none of them elsewhere (R122). -/
theorem execSetOrientation_registers {o : Orientation} {s t : State}
    (h : exec (.setOrientation o) s = .next t) :
    (t.lastResponse = some .ok ∧ t.orientation = o ∧
        (t.xStart, t.yStart) = offsets s.params.offsetAxis o s.sizeY) ∨
      (t.lastResponse ≠ some .ok ∧ t.orientation = s.orientation ∧ t.xStart = s.xStart ∧
        t.yStart = s.yStart) := by
  obtain ⟨es, hemits, -⟩ := sendOrientation_does o s
  obtain ⟨-, ⟨k, -, rfl⟩ | ⟨-, rfl⟩⟩ := execSetOrientation_next h
  · exact .inr ⟨by simp, hemits.orientation, hemits.xStart, hemits.yStart⟩
  · exact .inl ⟨by simp, rfl, rfl⟩

/-- Settles O25: the two ways SET_ORIENTATION can end differ in the response. -/
theorem setOrientationWritesRegistersOnlyOnSuccess :
    Obligations.SetOrientationWritesRegistersOnlyOnSuccess := by
  intro s t o h
  obtain ⟨hok, hregs⟩ | ⟨herr, hregs⟩ := execSetOrientation_registers h
  · exact ⟨fun _ => hregs, fun herr => absurd hok herr⟩
  · exact ⟨fun hok => absurd hok herr, fun _ => hregs⟩

/-- The offsets are those of the orientation (R13). -/
def OffsetsFresh (s : State) : Prop :=
  (s.xStart, s.yStart) = offsets s.params.offsetAxis s.orientation s.sizeY

theorem exec_keeps_offsetsFresh {i : Instr} {s t : State} (hs : OffsetsFresh s)
    (h : exec i s = .next t) : OffsetsFresh t := by
  obtain ⟨es, err, hd⟩ := exec_does i s t h
  have hkept : t.orientation = s.orientation ∧ t.xStart = s.xStart ∧ t.yStart = s.yStart →
      OffsetsFresh t := by
    rintro ⟨ho, hx, hy⟩
    unfold OffsetsFresh
    rw [ho, hx, hy, hd.params, hd.sizeY]
    exact hs
  by_cases hi : ∃ o, i = .setOrientation o
  · obtain ⟨o, rfl⟩ := hi
    obtain ⟨-, ho, hxy⟩ | ⟨-, hregs⟩ := execSetOrientation_registers h
    · unfold OffsetsFresh
      rw [ho, hd.params, hd.sizeY]
      exact hxy
    · exact hkept hregs
  · exact hkept ((exec_keepsRegisters h).addressing fun o ho => hi ⟨o, ho⟩)

/-- Only SET_ORIENTATION moves an offset, and then it leaves its operand as the orientation. -/
theorem exec_offset_writer {i : Instr} {s t : State} (h : exec i s = .next t)
    (hmoved : t.xStart ≠ s.xStart ∨ t.yStart ≠ s.yStart) :
    ∃ o, i = .setOrientation o ∧ t.orientation = o := by
  obtain ⟨o, rfl⟩ := (registersHaveOneWriter i s t h).2 (.inr hmoved)
  obtain ⟨-, ho, -⟩ | ⟨-, -, hx, hy⟩ := execSetOrientation_registers h
  · exact ⟨o, rfl, ho⟩
  · exact (hmoved.elim (· hx) (· hy)).elim

/-! ## Construction -/

theorem construct_next {straps : Straps} {sx sy : U16} {params : Params} {env : Env} {s : State}
    (h : construct straps sx sy params env = .next s) :
    sy.toNat ≤ 320 ∧ s = constructed straps sx sy params env := by
  unfold construct at h
  split at h
  · cases h
  · rename_i hle
    exact ⟨Nat.le_of_not_lt hle, (next_inj h).symm⟩

theorem constructed_registersCoherent {sy : U16} (h : sy.toNat ≤ 320) (straps : Straps) (sx : U16)
    (params : Params) (env : Env) : RegistersCoherent (constructed straps sx sy params env) where
  sizeBound := h
  offsetsFresh := rfl
  phaseSettled := .inl rfl
  buf8Empty := rfl
  buf16Empty := rfl
  absentUnknown := fun l _ => by cases l <;> rfl
  csNotLow := by simp [constructed]

theorem constructed_traceCoherent (straps : Straps) (sx sy : U16) (params : Params) (env : Env) :
    TraceCoherent (constructed straps sx sy params env) := ⟨rfl, rfl⟩

/-- State.reset is one of the states a construction leaves (entries 7 and 8). -/
theorem reset_eq_constructed :
    State.reset = constructed ⟨true, true, true, true⟩ 240 240
      (Params.suggested Config.freeRegProgram) ⟨[], .free 0⟩ := rfl

/-- Settles O57: a construction, and State.reset is one, leaves zero offsets, no call and no drive. -/
theorem constructionIsCoherent : Obligations.ConstructionIsCoherent := by
  refine ⟨fun straps sx sy params env s h => ?_, ?_, ?_⟩
  · obtain ⟨hle, rfl⟩ := construct_next h
    exact ⟨constructed_registersCoherent hle .., constructed_traceCoherent ..⟩
  · rw [reset_eq_constructed]
    exact constructed_registersCoherent (by decide) ..
  · rw [reset_eq_constructed]
    exact constructed_traceCoherent ..

/-- Settles O58: the bound decides, and what is left is read off `constructed`. -/
theorem constructionLeavesTheResetValues : Obligations.ConstructionLeavesTheResetValues := by
  intro straps sx sy params env
  refine ⟨fun hgt => if_pos hgt, fun hle => ⟨_, if_neg (Nat.not_lt.2 hle), ?_⟩⟩
  exact ⟨rfl, rfl, rfl, rfl, rfl, rfl, rfl, rfl, fun l => by cases l <;> rfl, rfl, rfl, rfl, rfl, rfl⟩

/-- Settles O54: fresh after construction, kept by every instruction, moved by SET_ORIENTATION alone. -/
theorem offsetsAreNeverStale : Obligations.OffsetsAreNeverStale := by
  refine ⟨fun straps sx sy params env s h => ?_, fun s t hs h => ?_,
    fun i s t h hmoved => exec_offset_writer h hmoved⟩
  · obtain ⟨-, rfl⟩ := construct_next h
    rfl
  · obtain rfl | ⟨i, r, rest, -, -, hexec⟩ := step_next h
    · exact hs
    · exact exec_keeps_offsetsFresh (s := s.setRequests rest) hs hexec

/-! ## The coherence of the registers -/

/-- INIT ends in DisplayOn where it responds Ok and in Unpowered elsewhere (R100, R105). -/
theorem execInit_phase {s t : State} (h : exec .init s = .next t) :
    (t.lastResponse = some .ok ∧ t.phase = .displayOn) ∨
      (t.lastResponse ≠ some .ok ∧ t.phase = .unpowered) := by
  obtain ⟨-, h⟩ := ifLive_next h
  obtain rfl := next_inj h
  cases hr : (initSequence s).err with
  | none => exact .inl (by simp [unpoweredOnError, hr, Run.response, initSequence_phase s hr])
  | some k => exact .inr (by simp [unpoweredOnError, hr, Run.response])

theorem exec_keeps_phaseSettled {i : Instr} {s t : State}
    (hs : s.phase = .unpowered ∨ s.phase = .displayOn) (h : exec i s = .next t) :
    t.phase = .unpowered ∨ t.phase = .displayOn := by
  by_cases hi : i = .init
  · subst hi
    exact (execInit_phase h).symm.imp And.right And.right
  · rwa [(exec_keepsRegisters h).phase hi]

theorem exec_keeps_registersCoherent {i : Instr} {s t : State} (hs : RegistersCoherent s)
    (h : exec i s = .next t) : RegistersCoherent t := by
  obtain ⟨es, err, hd⟩ := exec_does i s t h
  have hk := exec_keepsRegisters h
  refine
    { sizeBound := by rw [hd.sizeY]; exact hs.sizeBound
      offsetsFresh := exec_keeps_offsetsFresh hs.offsetsFresh h
      phaseSettled := exec_keeps_phaseSettled hs.phaseSettled h
      buf8Empty := hk.buf8.elim (·.trans hs.buf8Empty) id
      buf16Empty := hk.buf16.elim (·.trans hs.buf16Empty) id
      absentUnknown := fun l hl => ?_
      csNotLow := by rw [hd.lvl]; exact hd.csNotLow hs.csNotLow }
  rw [hd.has] at hl
  rw [hd.lvl, latchesAfter_get_of_undriven (undriven_of_absent hd.allowed hl)]
  exact hs.absentUnknown l hl

/-- Taking a request from the port writes no register. -/
theorem RegistersCoherent.setRequests {s : State} (hs : RegistersCoherent s) (rs : List Request) :
    RegistersCoherent (s.setRequests rs) :=
  ⟨hs.sizeBound, hs.offsetsFresh, hs.phaseSettled, hs.buf8Empty, hs.buf16Empty, hs.absentUnknown,
    hs.csNotLow⟩

/-- Settles O55: an idle step changes nothing, and every instruction keeps each part of the invariant. -/
theorem stepKeepsRegistersCoherent : Obligations.StepKeepsRegistersCoherent := by
  intro s t hs h
  obtain rfl | ⟨i, r, rest, -, -, hexec⟩ := step_next h
  · exact hs
  · exact exec_keeps_registersCoherent (hs.setRequests rest) hexec

end Sys2Proof.Machine
end

section
/-! Requests run to their response: SET_BACKLIGHT by the answer to its drive (R137), and every request of an
environment that always answers `ok` (42_init.md R108, 44_pixel_api.md R139); the packed registers. -/

namespace Sys2Proof.Machine

/-! ## SET_BACKLIGHT -/

theorem execSetBacklight_of_absent {s : State} (hlive : s.released = false) (hbl : s.has.bl = false)
    (b : BacklightState) :
    exec (.setBacklight b) s = .next (afterCalls s [] s.lvl .ok s.env) := by
  simp [exec, execSetBacklight, ifLive_live hlive, hbl, respond_eq, succeed, Run.response,
    State.pushResponse, afterCalls]

theorem execSetBacklight_of_ok {s : State} (hlive : s.released = false) (hbl : s.has.bl = true)
    (ha : s.env.answer 0 = .ok) (b : BacklightState) :
    exec (.setBacklight b) s =
      .next (afterCalls s [.pin .bl (backlightDrive b) .ok, .delay s.params.tBlUs]
        { s.lvl with bl := (backlightDrive b).level } .ok s.env.next) := by
  simp [exec, execSetBacklight, ifLive_live hlive, hbl, drivePinThenWait, drivePin, pinSetOr, pinSet_eq,
    ha, latchAfter, Latches.set, respond_eq, succeed, Run.andThen, Run.response, delayUs,
    State.pushEvent, State.pushResponse, afterCalls]

theorem execSetBacklight_of_fail {s : State} {e : PinError} (hlive : s.released = false)
    (hbl : s.has.bl = true) (ha : s.env.answer 0 = .fail e) (b : BacklightState) :
    exec (.setBacklight b) s =
      .next (afterCalls s [.pin .bl (backlightDrive b) (.fail e)] { s.lvl with bl := .unknown }
        (.err (.pin e)) s.env.next) := by
  simp [exec, execSetBacklight, ifLive_live hlive, hbl, drivePinThenWait, drivePin, pinSetOr, pinSet_eq,
    ha, latchAfter, Latches.set, respond_eq, raiseErr, Run.andThen, Run.response,
    State.pushResponse, afterCalls]

/-- Settles O36: BL is high for On and low for Off, and the answer to its drive decides the rest. -/
theorem setBacklightDrivesTheLine : Obligations.SetBacklightDrivesTheLine := by
  intro s b v hlive hv
  obtain rfl : v = backlightDrive b := by obtain ⟨rfl, rfl⟩ | ⟨rfl, rfl⟩ := hv <;> rfl
  exact ⟨fun hbl ha => execSetBacklight_of_ok hlive hbl ha b,
    fun _ hbl ha => execSetBacklight_of_fail hlive hbl ha b,
    fun hbl => execSetBacklight_of_absent hlive hbl b⟩

/-! ## Requests that are not refused -/

/-- Once `released` is true, every request meets a row of R166's table. -/
theorem refusedByRule_of_released {s : State} (h : s.released = true) (i : Instr) :
    RefusedByRule s i := by
  cases i with
  | setTearingEffect m => exact .inl h
  | setAddressWindow sx sy ex ey => exact .inl h
  | setPixel x y c => exact .inl h
  | setPixels sx sy ex ey colors => exact .inl h
  | blitPixels sx sy dx dy data => exact .inl h
  | _ => exact h

/-- A blit that meets no row of R166's table answers a next state. -/
theorem execBlitPixels_next_of_not_refused {s : State} {sx sy dx dy : U16} {data : List U8}
    (hlive : s.released = false) (h : ¬ BlitRefused s sx sy dx dy data) :
    ∃ t, exec (.blitPixels sx sy dx dy data) s = .next t := by
  have hexec : exec (.blitPixels sx sy dx dy data) s =
      if data.length = blitLength dx dy then blit sx sy dx dy data s
      else respondLent (raiseErr s.params.eBlitLen (s.lend (.bytes data))) := ifLive_live hlive _
  rw [hexec]
  by_cases hlen : data.length = blitLength dx dy
  · rw [if_pos hlen]
    simp only [BlitRefused, not_and, not_or, Nat.not_le] at h
    obtain ⟨hdx, hdy, hex, hey, hwin⟩ := h hlen
    have hfits : (fits16 (blitEnd sx dx) && fits16 (blitEnd sy dy)) = true := by
      rw [Bool.and_eq_true, fits16_iff, fits16_iff]
      exact ⟨hex, hey⟩
    unfold blit
    rw [if_neg (not_or.2 ⟨hdx, hdy⟩), if_pos hfits, narrow16_blitEnd hdx, narrow16_blitEnd hdy,
      ifWindowFits_of_fits hwin]
    exact ⟨_, rfl⟩
  · rw [if_neg hlen]
    exact ⟨_, rfl⟩

/-- A request that meets no row of R166's table answers a next state. -/
theorem exec_next_of_not_refused {i : Instr} {s : State} (h : ¬ RefusedByRule s i) :
    ∃ t, exec i s = .next t := by
  have hlive : s.released = false :=
    Bool.eq_false_iff.2 fun hrel => h (refusedByRule_of_released hrel i)
  have window : ∀ {sx sy ex ey r}, ¬ WindowOverflows s sx sy ex ey →
      ∃ t, ifLive s (ifWindowFits sx sy ex ey s (respond r)) = .next t := fun hw =>
    ⟨_, (ifLive_live hlive _).trans (ifWindowFits_of_fits hw _)⟩
  cases i with
  | setAddressWindow sx sy ex ey => exact window (not_or.1 h).2
  | setPixel x y c => exact window (not_or.1 h).2
  | setPixels sx sy ex ey colors => exact window (not_or.1 h).2
  | blitPixels sx sy dx dy data => exact execBlitPixels_next_of_not_refused hlive (not_or.1 h).2
  | setTearingEffect m =>
    cases m with
    | reserved => exact absurd (.inr rfl) h
    | _ => exact ⟨_, ifLive_live hlive _⟩
  | _ => exact ⟨_, ifLive_live hlive _⟩

/-- With every answer `ok`, a request ends with no error but one of its own. -/
theorem RequestDoes.err_of_answersOk {s t : State} {es : List Event} {err : Option Err}
    {P : Event → Prop} {X : Err → Prop} (hd : RequestDoes s t es err P X) (hs : AnswersOk s)
    (hX : ∀ k, ¬ X k) : err = none := by
  cases err with
  | none => rfl
  | some k =>
    obtain ⟨pre, f, post, rfl, -, hf, -⟩ | ⟨hk, -⟩ := hd.ends
    · have hok := envOk_no_failure hs hd.env f (by simp)
      simp [Event.isReportedFailure, hok] at hf
    · exact absurd hk (hX k)

/-- Only XMIT_DATA of the unsupported format and BLIT_PIXELS of a wrong length have an error of their own. -/
theorem not_ownErrorOf {i : Instr} {s : State} (hfmt : ∀ p, i ≠ .xmitData (.unsupported p))
    (hlen : ∀ sx sy dx dy data, i = .blitPixels sx sy dx dy data →
      data.length = dx.toNat * dy.toNat * 2) (k : Err) : ¬ ownErrorOf s i k := by
  cases i with
  | xmitData src =>
    rintro ⟨-, p, rfl⟩
    exact hfmt p rfl
  | blitPixels sx sy dx dy data => exact fun h => h.2 (hlen _ _ _ _ _ rfl)
  | _ => exact id

/-- Settles O41: not refused, there is a next state; no call failed, so no error ended it. -/
theorem optionalLinesAreTolerated : Obligations.OptionalLinesAreTolerated := by
  intro i s hs href hfmt hlen
  obtain ⟨t, h⟩ := exec_next_of_not_refused href
  obtain ⟨es, err, hd⟩ := exec_does i s t h
  obtain rfl := hd.err_of_answersOk hs (not_ownErrorOf hfmt hlen)
  exact ⟨t, h, hd.resp⟩

/-! ## The packed registers -/

theorem hasReg_getLsbD (s : State) :
    s.hasReg.getLsbD 0 = s.has.rst ∧ s.hasReg.getLsbD 1 = s.has.bl ∧
      s.hasReg.getLsbD 2 = s.has.dc ∧ s.hasReg.getLsbD 3 = s.has.cs := by
  unfold State.hasReg
  generalize s.has.rst = a, s.has.bl = b, s.has.dc = c, s.has.cs = d
  revert a b c d
  decide

theorem lvlReg_fields (s : State) :
    s.lvlReg.extractLsb' 0 2 = s.lvl.rst.code ∧ s.lvlReg.extractLsb' 2 2 = s.lvl.bl.code ∧
      s.lvlReg.extractLsb' 4 2 = s.lvl.dc.code ∧ s.lvlReg.extractLsb' 6 2 = s.lvl.cs.code := by
  unfold State.lvlReg
  generalize s.lvl.rst.code = a, s.lvl.bl.code = b, s.lvl.dc.code = c, s.lvl.cs.code = d
  revert a b c d
  decide

/-- No latch is coded `0b11` (R17). -/
theorem level_code_ne_three (l : Level) : l.code ≠ 3 := by cases l <;> decide

/-- Settles O59: the bits of HAS, the fields of LVL, and the tables of codes by definition. -/
theorem packedRegistersAndResponseByte : Obligations.PackedRegistersAndResponseByte := by
  refine ⟨fun s => ?_, rfl, rfl, rfl, rfl, rfl, rfl, rfl, rfl, rfl, rfl, rfl, rfl, fun _ => rfl, rfl,
    rfl, rfl, rfl⟩
  obtain ⟨hrst, hbl, hdc, hcs⟩ := hasReg_getLsbD s
  obtain ⟨lrst, lbl, ldc, lcs⟩ := lvlReg_fields s
  exact ⟨hrst, hbl, hdc, hcs, lrst, lbl, ldc, lcs, fun _ => level_code_ne_three _⟩

end Sys2Proof.Machine
end

section
/-! Two instances that differ only in their past make the same calls (60_exceptions.md R160): the operations
are taken through a pair of states that agree in all that decides a request. -/

namespace Sys2Proof.Machine

/-! ## Pairs of states and of runs -/

/-- The two states agree in everything a run reads before it has written it: the straps, the parameters,
the coming answers, and what an address window and its offsets are computed from. -/
structure Alike (s s' : State) : Prop where
  has : s'.has = s.has
  params : s'.params = s.params
  env : s'.env = s.env
  sizeY : s'.sizeY = s.sizeY
  xStart : s'.xStart = s.xStart
  yStart : s'.yStart = s.yStart

/-- The two runs make the same calls, end with the same error, do not respond, and leave states alike. -/
structure SameCalls (s s' : State) (r r' : Run) : Prop where
  calls : ∃ es, r.st.trace = s.trace ++ es ∧ r'.st.trace = s'.trace ++ es
  err : r'.err = r.err
  responses : r.st.responses = s.responses
  responses' : r'.st.responses = s'.responses
  alike : Alike r.st r'.st

/-- Calls and the environment before them determine the environment after them. -/
theorem answeredBy_unique {e a b : Env} {es : List Event} (ha : answeredBy e es a)
    (hb : answeredBy e es b) : b = a := by
  induction es generalizing e with
  | nil => exact Eq.trans hb (Eq.symm ha)
  | cons x xs ih =>
    cases x with
    | pin l v c => exact ih ha.2 hb.2
    | bus bs c => exact ih ha.2 hb.2
    | delay n => exact ih ha hb

section

variable {s s' t t' : State} {r r' : Run} {es : List Event}

theorem Alike.after_calls (ha : Alike s s') (h : Emits s es t) (h' : Emits s' es t') :
    Alike t t' where
  has := by rw [h.has, h'.has, ha.has]
  params := by rw [h.params, h'.params, ha.params]
  env := answeredBy_unique h.env (ha.env ▸ h'.env)
  sizeY := by rw [h.sizeY, h'.sizeY, ha.sizeY]
  xStart := by rw [h.xStart, h'.xStart, ha.xStart]
  yStart := by rw [h.yStart, h'.yStart, ha.yStart]

theorem SameCalls.of_emits (ha : Alike s s') (h : Emits s es r.st) (h' : Emits s' es r'.st)
    (herr : r'.err = r.err) : SameCalls s s' r r' :=
  ⟨⟨es, h.trace, h'.trace⟩, herr, h.responses, h'.responses, ha.after_calls h h'⟩

theorem sameCalls_succeed (ha : Alike s s') : SameCalls s s' (succeed s) (succeed s') :=
  .of_emits ha (Emits.nil s) (Emits.nil s') rfl

theorem SameCalls.trans_state (h : SameCalls s s' (succeed t) (succeed t'))
    (k : SameCalls t t' r r') : SameCalls s s' r r' := by
  obtain ⟨xs, hx, hx'⟩ := h.calls
  obtain ⟨ys, hy, hy'⟩ := k.calls
  simp only [succeed_st] at hx hx'
  exact
    { calls := ⟨xs ++ ys, by rw [hy, hx, List.append_assoc], by rw [hy', hx', List.append_assoc]⟩
      err := k.err
      responses := k.responses.trans h.responses
      responses' := k.responses'.trans h.responses'
      alike := k.alike }

/-- Forgetting how a run ended. -/
theorem SameCalls.forget_err (h : SameCalls s s' r r') :
    SameCalls s s' (succeed r.st) (succeed r'.st) :=
  ⟨h.calls, rfl, h.responses, h.responses', h.alike⟩

/-- The second runs are made of both or of neither (R155). -/
theorem SameCalls.andThen {f f' : State → Run} (h : SameCalls s s' r r')
    (k : ∀ t t', Alike t t' → SameCalls t t' (f t) (f' t')) :
    SameCalls s s' (r.andThen f) (r'.andThen f') := by
  cases hr : r.err with
  | some e => rwa [andThen_of_err hr, andThen_of_err (h.err.trans hr)]
  | none =>
    rw [andThen_of_ok hr, andThen_of_ok (h.err.trans hr)]
    exact h.forget_err.trans_state (k _ _ h.alike)

/-- An operation made on what a run leaves, however it ended. -/
theorem SameCalls.then_state {g : State → State} (h : SameCalls s s' r r')
    (k : SameCalls r.st r'.st (succeed (g r.st)) (succeed (g r'.st))) :
    SameCalls s s' { r with st := g r.st } { r' with st := g r'.st } :=
  { h.forget_err.trans_state k with err := h.err }

/-! ## Calls -/

theorem pinSet_same (l : Line) (v : Drive) (ha : Alike s s') :
    SameCalls s s' (succeed (pinSet l v s).2) (succeed (pinSet l v s').2) :=
  .of_emits ha (pinSet_emits l v s) (ha.env ▸ pinSet_emits l v s') rfl

theorem pinSetOr_same (kind : PinError → Err) (l : Line) (v : Drive) (ha : Alike s s') :
    SameCalls s s' (pinSetOr kind l v s) (pinSetOr kind l v s') := by
  rw [pinSetOr_eq, pinSetOr_eq, ha.env]
  exact { pinSet_same l v ha with err := rfl }

theorem delayUs_same (n : U32) (ha : Alike s s') :
    SameCalls s s' (succeed (delayUs n s)) (succeed (delayUs n s')) :=
  .of_emits ha (delayUs_emits n s) (delayUs_emits n s') rfl

theorem setPhase_same (p : Phase) (ha : Alike s s') :
    SameCalls s s' (succeed (s.setPhase p)) (succeed (s'.setPhase p)) :=
  .of_emits ha (setPhase_emits s p) (setPhase_emits s' p) rfl

theorem lend_same (p : Payload) (ha : Alike s s') :
    SameCalls s s' (succeed (s.lend p)) (succeed (s'.lend p)) :=
  .of_emits ha (lend_emits s p) (lend_emits s' p) rfl

/-- Giving the buffer back writes nothing that decides a request. -/
theorem giveBack_same (ha : Alike s s') :
    SameCalls s s' (succeed s.giveBack) (succeed s'.giveBack) :=
  { sameCalls_succeed ha with
    alike := ⟨ha.has, ha.params, ha.env, ha.sizeY, ha.xStart, ha.yStart⟩ }

theorem setReleased_same (b : Bool) (ha : Alike s s') :
    SameCalls s s' (succeed (s.setReleased b)) (succeed (s'.setReleased b)) :=
  { sameCalls_succeed ha with
    alike := ⟨ha.has, ha.params, ha.env, ha.sizeY, ha.xStart, ha.yStart⟩ }

/-! ## The encoder -/

/-- The events and the error of the bus writes `ws`, made up to the first that fails (R70). -/
inductive WritesEnd : List (List U8) → List Event → Option Err → Prop where
  | nil : WritesEnd [] [] none
  | ok {ws : List (List U8)} {es : List Event} {err : Option Err} (bs : List U8)
      (h : WritesEnd ws es err) : WritesEnd (bs :: ws) (.bus bs .ok :: es) err
  | fail (bs : List U8) (ws : List (List U8)) :
      WritesEnd (bs :: ws) [.bus bs .fail] (some .busWriteFailed)

theorem writesEnd_all (ws : List (List U8)) :
    WritesEnd ws (ws.map fun bs => .bus bs .ok) none := by
  induction ws with
  | nil => exact .nil
  | cons w ws ih => exact .ok w ih

theorem writesEnd_failed (done rest : List (List U8)) (bs : List U8) :
    WritesEnd (done ++ bs :: rest) (done.map (fun b => .bus b .ok) ++ [.bus bs .fail])
      (some .busWriteFailed) := by
  induction done with
  | nil => exact .fail bs rest
  | cons w ws ih => exact .ok w ih

theorem Writes.ends {ws : List (List U8)} (h : Writes ws s r) :
    ∃ es, Emits s es r.st ∧ WritesEnd ws es r.err := by
  obtain ⟨es, hemits, ⟨herr, rfl⟩ | ⟨herr, done, bs, rest, rfl, rfl⟩⟩ := h
  · exact ⟨_, hemits, herr ▸ writesEnd_all ws⟩
  · exact ⟨_, hemits, herr ▸ writesEnd_failed done rest bs⟩

/-- The answers decide how far the writes get. -/
theorem WritesEnd.unique {ws : List (List U8)} {es es' : List Event} {err err' : Option Err}
    {e a b : Env} (h : WritesEnd ws es err) (h' : WritesEnd ws es' err')
    (ha : answeredBy e es a) (hb : answeredBy e es' b) : es' = es ∧ err' = err := by
  induction h generalizing e es' err' with
  | nil =>
    cases h'
    exact ⟨rfl, rfl⟩
  | ok bs _ ih =>
    cases h' with
    | ok _ k =>
      obtain ⟨hes, herr⟩ := ih k ha.2 hb.2
      exact ⟨congrArg _ hes, herr⟩
    | fail => exact absurd (ha.1.trans hb.1.symm) (by decide)
  | fail bs ws =>
    cases h' with
    | ok _ k => exact absurd (ha.1.trans hb.1.symm) (by decide)
    | fail => exact ⟨rfl, rfl⟩

theorem Writes.same {ws : List (List U8)} (ha : Alike s s') (h : Writes ws s r)
    (h' : Writes ws s' r') : SameCalls s s' r r' := by
  obtain ⟨es, hemits, hend⟩ := h.ends
  obtain ⟨es', hemits', hend'⟩ := h'.ends
  obtain ⟨rfl, herr⟩ := hend.unique hend' hemits.env (ha.env ▸ hemits'.env)
  exact .of_emits ha hemits hemits' herr

theorem encodeSource_same (src : Source) (ha : Alike s s') :
    SameCalls s s' (encodeSource src s) (encodeSource src s') := by
  by_cases hu : ∃ p, src = .unsupported p
  · obtain ⟨p, rfl⟩ := hu
    exact .of_emits ha (Emits.nil s) (Emits.nil s') rfl
  · have hne : ∀ p, src ≠ .unsupported p := fun p hp => hu ⟨p, hp⟩
    have h' := encodeSource_writes src s' hne
    rw [ha.params] at h'
    exact (encodeSource_writes src s hne).same ha h'

/-! ## The bracket -/

theorem pinSet_of_answer {l : Line} {v : Drive} {a : Answer} (h : s.env.answer 0 = a) :
    pinSet l v s = (a, (pinSet l v s).2) := by
  rw [← h]; rfl

/-- What follows a failed assertion (R90 step 1). -/
theorem attemptRelease_same (ha : Alike s s') :
    SameCalls s s'
      (succeed (if s.params.csReleaseOnAssertFail then (pinSet .cs .high s).2 else s))
      (succeed (if s'.params.csReleaseOnAssertFail then (pinSet .cs .high s').2 else s')) := by
  rw [ha.params]
  split
  · exact pinSet_same _ _ ha
  · exact sameCalls_succeed ha

theorem assertCs_same (ha : Alike s s') : SameCalls s s' (assertCs s) (assertCs s') := by
  unfold assertCs
  rw [ha.has]
  cases s.has.cs with
  | false => exact sameCalls_succeed ha
  | true =>
    have hlow := pinSet_same .cs .low ha
    have henv : s'.env.answer 0 = s.env.answer 0 := by rw [ha.env]
    cases hans : s.env.answer 0 with
    | ok =>
      rw [pinSet_of_answer hans, pinSet_of_answer (henv.trans hans)]
      exact hlow
    | fail e =>
      rw [pinSet_of_answer hans, pinSet_of_answer (henv.trans hans)]
      exact { hlow.trans_state (attemptRelease_same hlow.alike) with err := rfl }

theorem selectDc_same (kind : Kind) (ha : Alike s s') :
    SameCalls s s' (selectDc kind s) (selectDc kind s') := by
  unfold selectDc
  rw [ha.has]
  cases s.has.dc with
  | false => exact sameCalls_succeed ha
  | true => exact pinSetOr_same _ _ _ ha

theorem releaseCs_same (ha : Alike s s') :
    SameCalls s s' (succeed (releaseCs s)) (succeed (releaseCs s')) := by
  unfold releaseCs
  rw [ha.has]
  cases s.has.cs with
  | false => exact sameCalls_succeed ha
  | true => exact pinSet_same _ _ ha

theorem xmit_same (kind : Kind) (src : Source) (ha : Alike s s') :
    SameCalls s s' (xmit kind src s) (xmit kind src s') := by
  refine (assertCs_same ha).andThen fun t t' ht => ?_
  have hbody := (selectDc_same kind ht).andThen fun _ _ hu => encodeSource_same src hu
  exact hbody.then_state (releaseCs_same hbody.alike)

theorem xmitCommand_same (c : Command) (ha : Alike s s') :
    SameCalls s s' (xmitCommand c s) (xmitCommand c s') := by
  unfold xmitCommand xmitCmd
  rw [ha.params]
  exact xmit_same _ _ ha

theorem xmitData_same (src : Source) (ha : Alike s s') :
    SameCalls s s' (xmitData src s) (xmitData src s') := xmit_same _ _ ha

/-! ## Above the sequencer -/

theorem sendWindow_same (sx sy ex ey : U16) (ha : Alike s s') :
    SameCalls s s' (sendWindow sx sy ex ey s) (sendWindow sx sy ex ey s') := by
  unfold sendWindow xmitCoordinate
  rw [ha.xStart, ha.yStart]
  exact (((((xmitCommand_same .caset ha).andThen fun _ _ ht => xmitData_same _ ht).andThen
    fun _ _ ht => xmitData_same _ ht).andThen fun _ _ ht => xmitCommand_same .raset ht).andThen
    fun _ _ ht => xmitData_same _ ht).andThen fun _ _ ht => xmitData_same _ ht

theorem sendPixels_same (sx sy ex ey : U16) (src : Source) (ha : Alike s s') :
    SameCalls s s' (sendPixels sx sy ex ey src s) (sendPixels sx sy ex ey src s') :=
  ((sendWindow_same sx sy ex ey ha).andThen fun _ _ ht => xmitCommand_same .ramwr ht).andThen
    fun _ _ ht => xmitData_same src ht

theorem windowFits_same (sx sy ex ey : U16) (ha : Alike s s') :
    windowFits sx sy ex ey s' = windowFits sx sy ex ey s := by
  unfold windowFits
  rw [ha.xStart, ha.yStart]

/-- The three registers are written the same, from the size and the parameters. -/
theorem recordOrientation_same (o : Orientation) (ha : Alike s s') :
    SameCalls s s' (recordOrientation o s) (recordOrientation o s') := by
  unfold recordOrientation
  rw [ha.params, ha.sizeY]
  exact
    { calls := ⟨[], by simp, by simp⟩
      err := rfl
      responses := rfl
      responses' := rfl
      alike := ⟨ha.has, ha.params, ha.env, ha.sizeY, rfl, rfl⟩ }

theorem drivePinThenWait_same (l : Line) (v : Drive) (n : U32) (ha : Alike s s') :
    SameCalls s s' (drivePinThenWait l v n s) (drivePinThenWait l v n s') :=
  (pinSetOr_same _ l v ha).andThen fun _ _ ht => delayUs_same n ht

theorem hardReset_same (ha : Alike s s') : SameCalls s s' (hardReset s) (hardReset s') := by
  unfold hardReset
  rw [ha.has, ha.params]
  cases s.has.rst with
  | false => exact sameCalls_succeed ha
  | true =>
    exact ((drivePinThenWait_same _ _ _ ha).andThen fun _ _ ht =>
      drivePinThenWait_same _ _ _ ht).andThen fun _ _ ht => drivePinThenWait_same _ _ _ ht

theorem backlightEngage_same (ha : Alike s s') :
    SameCalls s s' (backlightEngage s) (backlightEngage s') := by
  unfold backlightEngage
  rw [ha.has, ha.params]
  cases s.has.bl with
  | false => exact sameCalls_succeed ha
  | true =>
    exact (drivePinThenWait_same _ _ _ ha).andThen fun _ _ ht => pinSetOr_same _ _ _ ht

theorem sendStepData_same (data : List U8) (ha : Alike s s') :
    SameCalls s s' (sendStepData data s) (sendStepData data s') := by
  cases data with
  | nil => exact sameCalls_succeed ha
  | cons d ds => exact xmitData_same _ ha

theorem playStep_same (step : RegStep) (ha : Alike s s') :
    SameCalls s s' (playStep step s) (playStep step s') :=
  ((xmit_same _ _ ha).andThen fun _ _ ht => sendStepData_same _ ht).andThen
    fun _ _ ht => delayUs_same _ ht

theorem playSteps_same (steps : List RegStep) (ha : Alike s s') :
    SameCalls s s' (playSteps steps s) (playSteps steps s') := by
  induction steps generalizing s s' with
  | nil => exact sameCalls_succeed ha
  | cons step rest ih => exact (playStep_same step ha).andThen fun _ _ ht => ih ht

theorem registerProgram_same (ha : Alike s s') :
    SameCalls s s' (registerProgram s) (registerProgram s') := by
  unfold registerProgram
  rw [ha.params]
  exact playSteps_same _ ha

theorem displayOn_same (ha : Alike s s') : SameCalls s s' (displayOn s) (displayOn s') := by
  have w : ∀ {t t'} (c : Command) (n : U32), Alike t t' →
      SameCalls t t' (xmitCommandThenWait c n t) (xmitCommandThenWait c n t') := fun c n ht =>
    (xmitCommand_same c ht).andThen fun _ _ hu => delayUs_same n hu
  unfold displayOn
  rw [ha.params]
  exact ((w _ _ ha).andThen fun _ _ ht => w _ _ ht).andThen fun _ _ ht => w _ _ ht

theorem initSequence_same (ha : Alike s s') :
    SameCalls s s' (initSequence s) (initSequence s') := by
  have w : ∀ {t t'} {f : State → Run} (p : Phase),
      (∀ {u u'}, Alike u u' → SameCalls u u' (f u) (f u')) → Alike t t' →
      SameCalls t t' (f (t.setPhase p)) (f (t'.setPhase p)) := fun p hf ht =>
    (setPhase_same p ht).trans_state (hf (setPhase_same p ht).alike)
  exact ((((w _ hardReset_same ha).andThen fun _ _ ht => w _ backlightEngage_same ht).andThen
    fun _ _ ht => registerProgram_same ht).andThen fun _ _ ht => w _ displayOn_same ht).andThen
    fun _ _ ht => setPhase_same _ ht

theorem unpoweredOnError_of_ok (h : r.err = none) : unpoweredOnError r = r := by
  simp [unpoweredOnError, h]

theorem unpoweredOnError_of_err {k : Err} (h : r.err = some k) :
    unpoweredOnError r = { r with st := r.st.setPhase .unpowered } := by
  simp [unpoweredOnError, h]

theorem unpoweredOnError_same (h : SameCalls s s' r r') :
    SameCalls s s' (unpoweredOnError r) (unpoweredOnError r') := by
  cases hr : r.err with
  | none => rwa [unpoweredOnError_of_ok hr, unpoweredOnError_of_ok (h.err.trans hr)]
  | some k =>
    rw [unpoweredOnError_of_err hr, unpoweredOnError_of_err (h.err.trans hr)]
    exact h.then_state (g := (·.setPhase .unpowered)) (setPhase_same .unpowered h.alike)

/-! ## Requests -/

/-- Where the request answers a next state from `s` it does from `s'`, with the same calls, the same response
and the same answers left. -/
def Repeats (s s' : State) (o o' : Host.Outcome State Fault Refusal) : Prop :=
  ∀ t, o = .next t → ∃ es ρ u, t.trace = s.trace ++ es ∧ t.responses = s.responses ++ [ρ] ∧
    o' = .next u ∧ u.trace = s'.trace ++ es ∧ u.responses = s'.responses ++ [ρ] ∧ u.env = t.env

theorem SameCalls.repeats (h : SameCalls s s' r r') : Repeats s s' (respond r) (respond r') := by
  intro t ht
  obtain rfl := next_inj ht
  obtain ⟨es, htrace, htrace'⟩ := h.calls
  have hresponse : r'.response = r.response := by unfold Run.response; rw [h.err]
  exact ⟨es, r.response, _, htrace, congrArg (· ++ [r.response]) h.responses, rfl, htrace',
    by simp [State.pushResponse, h.responses', hresponse], h.alike.env⟩

/-- A payload is lent, the request runs, and the buffer goes back with the response. -/
theorem SameCalls.repeats_lent {p : Payload} (ha : Alike s s')
    (h : SameCalls (s.lend p) (s'.lend p) r r') : Repeats s s' (respondLent r) (respondLent r') :=
  (((lend_same p ha).trans_state h).then_state (giveBack_same h.alike)).repeats

variable {o o' : Host.Outcome State Fault Refusal}

theorem Repeats.of_live (hrel : s'.released = s.released) (h : Repeats s s' o o') :
    Repeats s s' (ifLive s o) (ifLive s' o') := by
  intro t ht
  obtain ⟨hlive, ht⟩ := ifLive_next ht
  rw [ifLive_live (hrel.trans hlive)]
  exact h t ht

theorem Repeats.of_windowFits {sx sy ex ey : U16} (ha : Alike s s') (h : Repeats s s' o o') :
    Repeats s s' (ifWindowFits sx sy ex ey s o) (ifWindowFits sx sy ex ey s' o') := by
  unfold ifWindowFits
  rw [windowFits_same _ _ _ _ ha]
  split
  · exact h
  · exact fun t ht => nomatch ht

theorem blit_repeats (sx sy dx dy : U16) (data : List U8) (ha : Alike s s') :
    Repeats s s' (blit sx sy dx dy data s) (blit sx sy dx dy data s') := by
  unfold blit
  split
  · exact fun t ht => nomatch ht
  · split
    · exact .of_windowFits ha
        (SameCalls.repeats_lent ha (sendPixels_same _ _ _ _ _ (lend_same _ ha).alike))
    · exact fun t ht => nomatch ht

theorem execBlitPixels_repeats (sx sy dx dy : U16) (data : List U8) (ha : Alike s s')
    (hrel : s'.released = s.released) :
    Repeats s s' (execBlitPixels sx sy dx dy data s) (execBlitPixels sx sy dx dy data s') := by
  refine .of_live hrel ?_
  split
  · exact blit_repeats sx sy dx dy data ha
  · rw [ha.params]
    exact SameCalls.repeats_lent ha { sameCalls_succeed (lend_same _ ha).alike with err := rfl }

theorem execSetTearingEffect_repeats (mode : TearingMode) (ha : Alike s s')
    (hrel : s'.released = s.released) :
    Repeats s s' (execSetTearingEffect mode s) (execSetTearingEffect mode s') := by
  have flag : ∀ v, SameCalls s s' (xmitTearingFlag v s) (xmitTearingFlag v s') := fun v =>
    (xmitCommand_same .teon ha).andThen fun _ _ ht => xmitData_same _ ht
  refine .of_live hrel ?_
  cases mode with
  | off => exact (xmitCommand_same .teoff ha).repeats
  | vertical => exact (flag 0x00).repeats
  | horizontalAndVertical => exact (flag 0x01).repeats
  | reserved => exact fun t ht => nomatch ht

theorem execSetBacklight_repeats (b : BacklightState) (ha : Alike s s')
    (hrel : s'.released = s.released) :
    Repeats s s' (execSetBacklight b s) (execSetBacklight b s') := by
  refine .of_live hrel (SameCalls.repeats ?_)
  rw [ha.has, ha.params]
  cases s.has.bl with
  | false => exact sameCalls_succeed ha
  | true => exact drivePinThenWait_same _ _ _ ha

theorem execSetOrientation_repeats (o : Orientation) (ha : Alike s s')
    (hrel : s'.released = s.released) :
    Repeats s s' (execSetOrientation o s) (execSetOrientation o s') := by
  refine .of_live hrel (SameCalls.repeats ?_)
  rw [ha.params]
  exact ((xmitCommand_same .madctl ha).andThen fun _ _ ht => xmitData_same _ ht).andThen
    fun _ _ ht => recordOrientation_same o ht

/-- Every instruction repeats itself from a state that is alike and as live. -/
theorem exec_repeats (i : Instr) (ha : Alike s s') (hrel : s'.released = s.released) :
    Repeats s s' (exec i s) (exec i s') := by
  have hlent : ∀ p, Alike (s.lend p) (s'.lend p) := fun p => (lend_same p ha).alike
  cases i with
  | init => exact .of_live hrel (unpoweredOnError_same (initSequence_same ha)).repeats
  | setOrientation o => exact execSetOrientation_repeats o ha hrel
  | setAddressWindow sx sy ex ey =>
    exact .of_live hrel (.of_windowFits ha (sendWindow_same sx sy ex ey ha).repeats)
  | setPixel x y c => exact .of_live hrel (.of_windowFits ha (sendPixels_same _ _ _ _ _ ha).repeats)
  | setPixels sx sy ex ey colors =>
    exact .of_live hrel
      (.of_windowFits ha (SameCalls.repeats_lent ha (sendPixels_same _ _ _ _ _ (hlent _))))
  | blitPixels sx sy dx dy data => exact execBlitPixels_repeats sx sy dx dy data ha hrel
  | setScrollOffset v =>
    exact .of_live hrel
      ((xmitCommand_same .vscad ha).andThen fun _ _ ht => xmitData_same _ ht).repeats
  | setTearingEffect mode => exact execSetTearingEffect_repeats mode ha hrel
  | setBacklight b => exact execSetBacklight_repeats b ha hrel
  | release =>
    exact .of_live hrel (setReleased_same true ha).repeats
  | xmitCmd c => exact .of_live hrel (xmit_same _ _ ha).repeats
  | xmitData src => exact .of_live hrel (SameCalls.repeats_lent ha (xmitData_same src (hlent _)))
  | _ => exact .of_live hrel (xmitCommand_same _ ha).repeats

end

/-- Settles O52: the two instances are alike, and the flag is the same. -/
theorem thePastDecidesNothing : Obligations.ThePastDecidesNothing := by
  intro i s t trace responses lvl phase buf8 buf16 payload consumed returned requests h
  exact exec_repeats i (s := s)
    (s' := { s with trace, responses, lvl, phase, buf8, buf16, payload, consumed, returned, requests })
    ⟨rfl, rfl, rfl, rfl, rfl, rfl⟩ rfl t h

end Sys2Proof.Machine
end

section
/-! What the controller sees on the wire (20_memory.md R37): a transmission as its bytes, each tagged by the
level DC is driven to, and the coherent runs, in which no byte is untagged. -/

namespace Sys2Proof.Machine

/-! ## The wire view, event by event -/

@[simp] theorem wireFrom_nil (hasDc : Bool) (l : Latches) : wireFrom hasDc l [] = [] := rfl

@[simp] theorem wireFrom_pin (hasDc : Bool) (l : Latches) (line : Line) (v : Drive) (a : Answer)
    (es : List Event) :
    wireFrom hasDc l (.pin line v a :: es) = wireFrom hasDc (l.set line (latchAfter v a)) es := rfl

@[simp] theorem wireFrom_bus_ok (hasDc : Bool) (l : Latches) (bs : List U8) (es : List Event) :
    wireFrom hasDc l (.bus bs .ok :: es) =
      bs.map (WireItem.byte (wireTag hasDc l.dc)) ++ wireFrom hasDc l es := rfl

@[simp] theorem wireFrom_bus_fail (hasDc : Bool) (l : Latches) (bs : List U8) (es : List Event) :
    wireFrom hasDc l (.bus bs .fail :: es) = [.failedWrite] := rfl

@[simp] theorem wireFrom_delay (hasDc : Bool) (l : Latches) (n : U32) (es : List Event) :
    wireFrom hasDc l (.delay n :: es) = wireFrom hasDc l es := rfl

/-- Only the DC latch is looked at, and it only where the line is present. -/
theorem wireFrom_congr_dc {hasDc : Bool} {l m : Latches} (h : hasDc = true → l.dc = m.dc)
    (es : List Event) : wireFrom hasDc l es = wireFrom hasDc m es := by
  induction es generalizing l m with
  | nil => rfl
  | cons e es ih =>
    cases e with
    | pin line v a =>
      rw [wireFrom_pin, wireFrom_pin]
      exact ih fun hd => by cases line <;> simp [Latches.set, h hd]
    | bus bs a =>
      have htag : wireTag hasDc l.dc = wireTag hasDc m.dc := by
        cases hasDc with
        | false => rfl
        | true => rw [h rfl]
      cases a with
      | ok => rw [wireFrom_bus_ok, wireFrom_bus_ok, htag, ih h]
      | fail => rfl
    | delay n => exact ih h

/-- Chip-select carries no data: its drive before other calls is not seen. -/
theorem wireFrom_ifPresent_cs (hasDc b : Bool) (l : Latches) (v : Drive) (a : Answer)
    (es : List Event) : wireFrom hasDc l (ifPresent b (.pin .cs v a) ++ es) = wireFrom hasDc l es := by
  cases b with
  | false => rfl
  | true => exact wireFrom_congr_dc (l := l.set .cs (latchAfter v a)) (m := l) (fun _ => rfl) es

/-- Nor is its drive after them. -/
theorem wireFrom_append_cs (hasDc b : Bool) (l : Latches) (v : Drive) (a : Answer) (es : List Event) :
    wireFrom hasDc l (es ++ ifPresent b (.pin .cs v a)) = wireFrom hasDc l es := by
  induction es generalizing l with
  | nil => simpa using wireFrom_ifPresent_cs hasDc b l v a []
  | cons e es ih =>
    cases e with
    | pin line w c => exact ih _
    | bus bs c =>
      cases c with
      | ok => exact congrArg (bs.map _ ++ ·) (ih l)
      | fail => rfl
    | delay n => exact ih l

/-- A successful drive of DC, where the line is present, fixes the level of what follows. -/
theorem wireFrom_ifPresent_dc (hasDc : Bool) (l : Latches) (v : Drive) (es : List Event) :
    wireFrom hasDc l (ifPresent hasDc (.pin .dc v .ok) ++ es) =
      wireFrom hasDc { l with dc := v.level } es := by
  cases hasDc with
  | false => exact wireFrom_congr_dc (by simp) es
  | true => rfl

/-- Successful bus writes are seen as their bytes, one after the other. -/
theorem wireFrom_writes (hasDc : Bool) (l : Latches) (ws : List (List U8)) :
    wireFrom hasDc l (ws.map (fun bs => .bus bs .ok)) =
      ws.flatten.map (WireItem.byte (wireTag hasDc l.dc)) := by
  induction ws with
  | nil => rfl
  | cons w ws ih => simp [ih]

/-! ## The wire view of a transmission -/

/-- How the bytes of a transmission are tagged (R37). -/
def Kind.wireTag (hasDc : Bool) : Kind → WireTag
  | .cmd => if hasDc then .cmd else .noDc
  | .data => if hasDc then .data else .noDc

theorem wireTag_dcLevel (hasDc : Bool) (kind : Kind) :
    wireTag hasDc kind.dcLevel.level = kind.wireTag hasDc := by
  cases hasDc <;> cases kind <;> rfl

/-- The bracket (41_sequencer.md R90) only sets the level for the encoder's writes. -/
theorem wireFrom_bracket (has : Straps) (kind : Kind) (l : Latches) (ws : List Event) (a : Answer) :
    wireFrom has.dc l (ifPresent has.cs (.pin .cs .low .ok) ++
        (ifPresent has.dc (.pin .dc kind.dcLevel .ok) ++ (ws ++ ifPresent has.cs (.pin .cs .high a)))) =
      wireFrom has.dc { l with dc := kind.dcLevel.level } ws := by
  rw [wireFrom_ifPresent_cs, wireFrom_ifPresent_dc, wireFrom_append_cs]

theorem wireFrom_bracketTrace (has : Straps) (kind : Kind) (l : Latches) (ws : List (List U8)) :
    wireFrom has.dc l (bracketTrace has kind ws) =
      ws.flatten.map (WireItem.byte (kind.wireTag has.dc)) := by
  simp only [bracketTrace, List.append_assoc, wireFrom_bracket, wireFrom_writes, wireTag_dcLevel]

/-- A transmission with no error is seen as `Bytes(fmt, p)`. -/
theorem XmitOutcome.wire_ok {s : State} {kind : Kind} {src : Source} {es : List Event}
    (h : XmitOutcome s kind src es none) (l : Latches) :
    wireFrom s.has.dc l es =
      (sourceBytes s.params.nativeOrder src).map (WireItem.byte (kind.wireTag s.has.dc)) := by
  cases h with
  | encoded ws _ a hws =>
    cases hws with
    | all => rw [wireFrom_bracket, wireFrom_writes, wireTag_dcLevel, expectedWrites_flatten]

/-- A transmission that did not reach its encoder is not seen at all. -/
theorem XmitOutcome.wire_unreached {s : State} {kind : Kind} {src : Source} {es : List Event}
    {k : Err} (h : XmitOutcome s kind src es (some k)) (hk : k = .csFailed ∨ k = .dcFailed)
    (l : Latches) : wireFrom s.has.dc l es = [] := by
  cases h with
  | assertFailed e a hc => cases s.params.csReleaseOnAssertFail <;> rfl
  | selectFailed e a hd =>
    rw [wireFrom_ifPresent_cs, wireFrom_append_cs]
    rfl
  | encoded ws _ a hws =>
    cases hws with
    | failed | unsupported => simp at hk

/-- A byte slice is one write: where it fails, only the marker is seen (entry 21). -/
theorem XmitOutcome.wire_writeFailed {s : State} {kind : Kind} {p : List U8} {es : List Event}
    (h : XmitOutcome s kind (.u8 p) es (some .busWriteFailed)) (l : Latches) :
    wireFrom s.has.dc l es = [.failedWrite] := by
  cases h with
  | encoded ws _ a hws =>
    rw [wireFrom_bracket]
    cases hws with
    | failed _ done rest bs hsplit =>
      obtain ⟨rfl, -⟩ | ⟨-, hrest⟩ := List.singleton_eq_append_iff.1 hsplit
      · rfl
      · cases hrest

/-! ## XMIT_DATA and XMIT_CMD on the wire -/

/-- Settles O21: where every call answers `ok` the transmission makes the trace of R95. -/
theorem dataOnTheWireIsTheBytesOfItsFormat : Obligations.DataOnTheWireIsTheBytesOfItsFormat := by
  intro s src hlive hok
  obtain ⟨hemits, -⟩ := xmit_ok .data src (s.lend src.payload) hok
  refine ⟨_, _, ifLive_live hlive _, hemits.trace, ?_⟩
  rw [← expectedWrites_flatten]
  exact wireFrom_bracketTrace s.has .data s.lvl _

theorem response_err_iff {r : Run} {k : Err} : r.response = .err k ↔ r.err = some k := by
  unfold Run.response; cases r.err <;> simp

/-- XMIT_CMD is one transmission, and the response to it. -/
theorem execXmitCmd_next {c : U8} {s t : State} (h : exec (.xmitCmd c) s = .next t) :
    ∃ es, t.trace = s.trace ++ es ∧ t.lastResponse = some (xmitCmd c s).response ∧
      XmitOutcome s .cmd (.u8 [c]) es (xmitCmd c s).err := by
  obtain ⟨-, h⟩ := ifLive_next h
  obtain rfl := next_inj h
  obtain ⟨⟨es, hemits, hout⟩, -⟩ := xmit_spec .cmd (.u8 [c]) s
  exact ⟨es, hemits.trace, lastResponse_pushResponse _ _, hout⟩

/-- Settles O22: the response names the place of the failure, and each place its wire view. -/
theorem commandOnTheWireIsItsByteTaggedCmd : Obligations.CommandOnTheWireIsItsByteTaggedCmd := by
  intro s c hlive
  refine ⟨fun hok => ⟨_, ifLive_live hlive _, ?_⟩, fun t es h htrace => ?_⟩
  · obtain ⟨-, herr, -⟩ := xmitU8_ok .cmd [c] s hok
    rw [lastResponse_pushResponse, (response_ok_iff (xmitCmd c s)).2 herr]
  · obtain ⟨es', htrace', hresp, hout⟩ := execXmitCmd_next h
    obtain rfl := List.append_cancel_left (htrace.symm.trans htrace')
    simp only [hresp, Option.some_inj, response_ok_iff, response_err_iff]
    refine ⟨fun herr => (herr ▸ hout).wire_ok s.lvl, fun herr => ?_,
      fun herr => (herr ▸ hout).wire_writeFailed s.lvl⟩
    obtain herr | herr := herr
    · exact (herr ▸ hout).wire_unreached (.inl rfl) s.lvl
    · exact (herr ▸ hout).wire_unreached (.inr rfl) s.lvl

/-! ## Coherent traces -/

/-- A bus write made while DC, if present, is at a known level has a tag (41_sequencer.md R92 (a)). -/
theorem wireTag_ne_undef {has : Straps} {l : Latches} {bs : List U8} {a : BusAnswer}
    (h : callAllowed has l (.bus bs a) = true) : wireTag has.dc l.dc ≠ .undef := by
  cases hd : has.dc with
  | false => simp [wireTag]
  | true =>
    have hdc : l.dc ≠ .unknown := fun hdc => by simp [callAllowed, hd, hdc] at h
    cases hl : l.dc with
    | unknown => exact absurd hl hdc
    | low | high => simp [wireTag]

theorem wireFrom_no_undef {has : Straps} {l : Latches} {es : List Event}
    (h : callsAllowed has l es = true) (b : U8) : .byte .undef b ∉ wireFrom has.dc l es := by
  induction es generalizing l with
  | nil => simp
  | cons e es ih =>
    simp only [callsAllowed, Bool.and_eq_true] at h
    obtain ⟨hcall, hcalls⟩ := h
    cases e with
    | pin line v a => exact ih hcalls
    | bus bs a =>
      cases a with
      | ok =>
        have hrest : .byte .undef b ∉ wireFrom has.dc l es := ih hcalls
        simp [wireTag_ne_undef hcall, hrest]
      | fail => simp
    | delay n => exact ih hcalls

/-- Settles O23: every call of a coherent trace was allowed, its bus writes among them. -/
theorem noByteOnTheWireIsUndefined : Obligations.NoByteOnTheWireIsUndefined :=
  fun _ hs => wireFrom_no_undef hs.calls

end Sys2Proof.Machine
end

section
/-! The rules of 20_memory.md about values and lines: byte order (R39), the address window (R43), and the
events that belong to INIT and SET_BACKLIGHT alone (R45). -/

namespace Sys2Proof.Machine

/-! ## Byte order -/

/-- Joining two bytes by a shift (R39) is writing one after the other. -/
theorem shift_or_eq_append (a b : U8) : (a.setWidth 16 <<< 8) ||| b.setWidth 16 = a ++ b := by
  rw [← BitVec.setWidth_append_eq_shiftLeft_setWidth_or, BitVec.setWidth_eq]

theorem hi8_append_lo8 (v : U16) : hi8 v ++ lo8 v = v :=
  BitVec.extractLsb'_append_extractLsb' (w := 8) (len := 8)

/-- The swap exchanges the two bytes. -/
theorem bswap16_eq_append (v : U16) : bswap16 v = lo8 v ++ hi8 v := shift_or_eq_append _ _

theorem bswap16_bswap16 (v : U16) : bswap16 (bswap16 v) = v := by
  have hlo : lo8 (lo8 v ++ hi8 v) = hi8 v := BitVec.extractLsb'_append_eq_right
  have hhi : hi8 (lo8 v ++ hi8 v) = lo8 v := BitVec.extractLsb'_append_eq_left
  rw [bswap16_eq_append v, bswap16_eq_append, hlo, hhi, hi8_append_lo8]

/-- Settles O17: a value is its high byte, then its low byte, and the swap exchanges them. -/
theorem byteOrderRoundTrips : Obligations.ByteOrderRoundTrips := fun v =>
  ⟨(shift_or_eq_append _ _).trans (hi8_append_lo8 v), bswap16_bswap16 v, rfl, rfl⟩

/-! ## The address window -/

/-- A successful quiet run, and the response to it: nothing else differs. -/
theorem OkRun.respond_eq_afterCalls {s : State} {es : List Event} {r : Run} (h : OkRun s es r) :
    respond r = .next (afterCalls s es (latchesAfter s.lvl es) .ok r.st.env) := by
  obtain ⟨hemits, herr, hq⟩ := h
  rw [respond_eq, (response_ok_iff r).2 herr, hemits.rest, hemits.trace, hemits.lvl, hq.payload,
    hq.consumed, hq.buf8, hq.buf16, hq.phase]
  rfl

/-- The last transmission decides the latches of DC and CS. -/
theorem latchesAfterXmit_latchesAfterXmit (has : Straps) (kind kind' : Kind) (l : Latches) :
    latchesAfterXmit has kind (latchesAfterXmit has kind' l) = latchesAfterXmit has kind l := by
  obtain ⟨rst, bl, dc, cs⟩ := has
  cases dc <;> cases cs <;> rfl

theorem latchesAfter_windowTrace (s : State) (sx sy ex ey : U16) (l : Latches) :
    latchesAfter l (windowTrace s sx sy ex ey) = latchesAfterXmit s.has .data l := by
  simp only [windowTrace, commandTrace, wordTrace, dataTrace, latchesAfter_append,
    latchesAfter_bracket, latchesAfterXmit_latchesAfterXmit]

/-- Settles O27: the window fits, so it is sent, and its six transmissions touch nothing else. -/
theorem setAddressWindowSendsShiftedCoordinates :
    Obligations.SetAddressWindowSendsShiftedCoordinates := by
  intro s sx sy ex ey hlive hok hfits
  refine ⟨(sendWindow sx sy ex ey s).st.env, ?_⟩
  rw [← latchesAfter_windowTrace s sx sy ex ey, ← (sendWindow_ok sx sy ex ey s hok).respond_eq_afterCalls]
  exact (ifLive_live hlive _).trans (ifWindowFits_of_fits hfits _)

/-! ## Power lines and delays -/

/-- An event that no transmission makes belongs to INIT or SET_BACKLIGHT. -/
theorem eventsOf_not_xmit {i : Instr} {e : Event} (h : eventsOf i e) (he : ¬ IsXmitEvent e) :
    i = .init ∨ (∃ b, i = .setBacklight b) ∧ IsBacklightEvent e := by
  cases i with
  | init => exact .inl rfl
  | setBacklight b => exact .inr ⟨⟨b, rfl⟩, h⟩
  | release => exact h.elim
  | _ => exact absurd h he

/-- Settles O51: RST, BL and the delay are no events of a transmission, and RST is none of SET_BACKLIGHT. -/
theorem delaysAndPowerLinesBelongToInitAndBacklight :
    Obligations.DelaysAndPowerLinesBelongToInitAndBacklight := by
  intro i s t es h htrace
  obtain ⟨es', err, hd⟩ := exec_does i s t h
  obtain rfl := List.append_cancel_left (htrace.symm.trans hd.trace)
  refine ⟨fun v a hm => ?_, fun v a hm => ?_, fun n hm => ?_⟩
  · exact (eventsOf_not_xmit (hd.events _ hm) id).resolve_right And.right
  · exact (eventsOf_not_xmit (hd.events _ hm) id).imp_right And.left
  · exact (eventsOf_not_xmit (hd.events _ hm) id).imp_right And.left

end Sys2Proof.Machine
end

section
/-! The decoder (30_encoding.md R51 to R54, R58, R59): what it reads, operation by operation and byte by
byte, and the step that decodes first. -/

namespace Sys2Proof.Machine

/-! ## Request words, by operation (R52) -/

section

variable {w : BitVec 72} {p : Payload}

theorem decode_init (h : reqOp w = 0x0) : decode (.req w p) = .ok .init := by
  simp [decode, decodeReq, h]

theorem decode_setOrientation (h : reqOp w = 0x1) :
    decode (.req w p) = .ok (.setOrientation (decodeOrientation (reqA0 w))) := by
  simp [decode, decodeReq, h]

theorem decode_setAddressWindow (h : reqOp w = 0x2) :
    decode (.req w p) = .ok (.setAddressWindow (reqA0 w) (reqA1 w) (reqA2 w) (reqA3 w)) := by
  simp [decode, decodeReq, h]

theorem decode_setPixel (h : reqOp w = 0x3) :
    decode (.req w p) = .ok (.setPixel (reqA0 w) (reqA1 w) (reqA2 w)) := by
  simp [decode, decodeReq, h]

theorem decode_setPixels (h : reqOp w = 0x4) :
    decode (.req w p) = decodeSetPixels (reqA0 w) (reqA1 w) (reqA2 w) (reqA3 w) p := by
  simp [decode, decodeReq, h]

theorem decode_blitPixels (h : reqOp w = 0x5) :
    decode (.req w p) = decodeBlitPixels (reqA0 w) (reqA1 w) (reqA2 w) (reqA3 w) p := by
  simp [decode, decodeReq, h]

theorem decode_setScrollOffset (h : reqOp w = 0x6) :
    decode (.req w p) = .ok (.setScrollOffset (reqA0 w)) := by
  simp [decode, decodeReq, h]

theorem decode_setTearing (h : reqOp w = 0x7) :
    decode (.req w p) = decodeSetTearing (reqA0 w) := by
  simp [decode, decodeReq, h]

theorem decode_setBacklight (h : reqOp w = 0x8) :
    decode (.req w p) = .ok (.setBacklight (decodeBacklight (reqA0 w))) := by
  simp [decode, decodeReq, h]

theorem decode_release (h : reqOp w = 0x9) : decode (.req w p) = .ok .release := by
  simp [decode, decodeReq, h]

theorem decode_xmitCmd (h : reqOp w = 0xA) :
    decode (.req w p) = .ok (.xmitCmd ((reqA0 w).extractLsb' 0 8)) := by
  simp [decode, decodeReq, h]

theorem decode_xmitData (h : reqOp w = 0xB) :
    decode (.req w p) = (decodeSource (reqFmt w) p).map .xmitData := by
  simp only [decode, decodeReq, h]
  cases decodeSource (reqFmt w) p <;> rfl

theorem decode_reservedOperation (h : 12 ≤ (reqOp w).toNat) :
    decode (.req w p) = .error .reservedOperation := by
  change decodeReq w p = _
  unfold decodeReq
  split
  case h_13 => rfl
  all_goals omega

end

/-! ## Command bytes (R58) -/

theorem commandOfByte_tableByte (c : Command) : commandOfByte c.tableByte = some c := by
  cases c <;> rfl

/-- Every row stands under its own byte. -/
theorem cmd8Rows_tableByte : ∀ row ∈ cmd8Rows, row.2.tableByte = row.1 := by decide

/-- A byte that stands for a command is that command's byte. -/
theorem tableByte_of_commandOfByte {b : U8} {c : Command} (h : commandOfByte b = some c) :
    c.tableByte = b := by
  obtain ⟨row, hrow, rfl⟩ := Option.map_eq_some_iff.1 h
  have hbyte : row.1 = b := by simpa using List.find?_some hrow
  exact (cmd8Rows_tableByte row (List.mem_of_find?_eq_some hrow)).trans hbyte

theorem decode_tableByte (c : Command) : decode (.cmd8 c.tableByte) = .ok c.toInstr := by
  simp [decode, commandOfByte_tableByte]

theorem decode_unassignedByte {b : U8} (h : ∀ c : Command, c.tableByte ≠ b) :
    decode (.cmd8 b) = .error .unassignedCommandByte := by
  have hnone : commandOfByte b = none :=
    Option.eq_none_iff_forall_ne_some.2 fun c hc => h c (tableByte_of_commandOfByte hc)
  simp [decode, hnone]

/-- A row of format CMD8 is encoded as its byte. -/
theorem encode_of_command {i : Instr} {c : Command} (h : i.command? = some c) :
    encode i = .cmd8 c.tableByte ∧ c.toInstr = i := by
  cases i <;> cases h <;> exact ⟨rfl, rfl⟩

theorem decode_encode_of_command {i : Instr} {c : Command} (h : i.command? = some c) :
    decode (encode i) = .ok i := by
  obtain ⟨henc, hinstr⟩ := encode_of_command h
  rw [henc, decode_tableByte, hinstr]

/-! ## Decoding an encoding -/

theorem decodeSetTearing_code {m : TearingMode} (h : m.isLegal = true) :
    decodeSetTearing (m.code.setWidth 16) = .ok (.setTearingEffect m) := by
  cases m with
  | reserved => cases h
  | _ => rfl

/-- Settles O1: a request word gives back its operation and then the operands of that operation, a command
byte its row. -/
theorem encodeThenDecodeGivesTheInstruction :
    Obligations.EncodeThenDecodeGivesTheInstruction := by
  intro i hi
  cases i with
  | init => exact decode_init (reqOp_pack ..)
  | setOrientation o => simp [encode, decode_setOrientation]
  | setAddressWindow sx sy ex ey => simp [encode, decode_setAddressWindow]
  | setPixel x y color => simp [encode, decode_setPixel]
  | setPixels sx sy ex ey colors => simp [encode, decode_setPixels, decodeSetPixels]
  | blitPixels sx sy dx dy data => simp [encode, decode_blitPixels, decodeBlitPixels]
  | setScrollOffset offset => simp [encode, decode_setScrollOffset]
  | setTearingEffect mode => simp [encode, decode_setTearing, decodeSetTearing_code hi]
  | setBacklight state => simp [encode, decode_setBacklight]
  | release => exact decode_release (reqOp_pack ..)
  | xmitCmd c => simp [encode, decode_xmitCmd]
  | xmitData src => simp [encode, decode_xmitData, Except.map]
  | _ => exact decode_encode_of_command rfl

/-! ## What an operation ignores -/

theorem decodeOrientation_congr {a a' : U16} (h : a.extractLsb' 0 2 = a'.extractLsb' 0 2) :
    decodeOrientation a = decodeOrientation a' := by
  simp only [decodeOrientation, h]

theorem decodeSetTearing_congr {a a' : U16} (h : a.extractLsb' 0 2 = a'.extractLsb' 0 2) :
    decodeSetTearing a = decodeSetTearing a' := by
  simp only [decodeSetTearing, decodeTearingMode, h]

theorem decodeBacklight_congr {a a' : U16} (h : a.extractLsb' 0 1 = a'.extractLsb' 0 1) :
    decodeBacklight a = decodeBacklight a' := by
  simp only [decodeBacklight, h]

/-- Settles O2: the equation of each operation names the fields it uses, and no others. -/
theorem unusedRequestFieldsAreIgnored : Obligations.UnusedRequestFieldsAreIgnored := by
  intro w w' p p' hop
  refine ⟨?_, ?_, ?_, ?_, ?_, ?_, ?_, ?_, ?_⟩
  · rintro (h | h)
    · rw [decode_init h, decode_init (hop ▸ h)]
    · rw [decode_release h, decode_release (hop ▸ h)]
  · rintro (h | h) h0
    · rw [decode_setOrientation h, decode_setOrientation (hop ▸ h), decodeOrientation_congr h0]
    · rw [decode_setTearing h, decode_setTearing (hop ▸ h), decodeSetTearing_congr h0]
  · intro h h0
    rw [decode_setBacklight h, decode_setBacklight (hop ▸ h), decodeBacklight_congr h0]
  · intro h h0
    rw [decode_xmitCmd h, decode_xmitCmd (hop ▸ h), h0]
  · intro h h0
    rw [decode_setScrollOffset h, decode_setScrollOffset (hop ▸ h), h0]
  · intro h h0 h1 h2
    rw [decode_setPixel h, decode_setPixel (hop ▸ h), h0, h1, h2]
  · intro h h0 h1 h2 h3
    rw [decode_setAddressWindow h, decode_setAddressWindow (hop ▸ h), h0, h1, h2, h3]
  · rintro (h | h) h0 h1 h2 h3
    · rw [decode_setPixels h, decode_setPixels (hop ▸ h), h0, h1, h2, h3]
    · rw [decode_blitPixels h, decode_blitPixels (hop ▸ h), h0, h1, h2, h3]
  · intro h hfmt
    rw [decode_xmitData h, decode_xmitData (hop ▸ h), hfmt]

/-! ## What is refused -/

theorem decodeSetTearing_reserved {a : U16} (h : a.extractLsb' 0 2 = 3) :
    decodeSetTearing a = .error .reservedTearingMode := by
  simp [decodeSetTearing, decodeTearingMode, h]

/-- Settles O3: the decoder refuses both, and a step decodes first. -/
theorem reservedEncodingsAreRefused : Obligations.ReservedEncodingsAreRefused := by
  intro s w p rest hs
  exact ⟨fun h => step_of_undecodable hs (decode_reservedOperation h),
    fun hop hmode => step_of_undecodable hs
      ((decode_setTearing hop).trans (decodeSetTearing_reserved hmode))⟩

/-- A format of `u16` elements takes no bytes (R54). -/
theorem decodeSource_bytes_mismatch {fmt : BitVec 3} (bs : List U8)
    (h : fmt = 1 ∨ fmt = 2 ∨ fmt = 3 ∨ fmt = 5 ∨ fmt = 6) :
    decodeSource fmt (.bytes bs) = .error .payloadTypeMismatch := by
  obtain rfl | rfl | rfl | rfl | rfl := h <;> rfl

/-- A format of `u8` elements takes no half-words (R54). -/
theorem decodeSource_halves_mismatch {fmt : BitVec 3} (hs : List U16) (h : fmt = 0 ∨ fmt = 4) :
    decodeSource fmt (.halves hs) = .error .payloadTypeMismatch := by
  obtain rfl | rfl := h <;> rfl

theorem decode_bytes_mismatch {w : BitVec 72} (bs : List U8)
    (h : reqOp w = 0x4 ∨ (reqOp w = 0xB ∧
      (reqFmt w = 1 ∨ reqFmt w = 2 ∨ reqFmt w = 3 ∨ reqFmt w = 5 ∨ reqFmt w = 6))) :
    decode (.req w (.bytes bs)) = .error .payloadTypeMismatch := by
  obtain hop | ⟨hop, hfmt⟩ := h
  · exact decode_setPixels hop
  · rw [decode_xmitData hop, decodeSource_bytes_mismatch bs hfmt]
    rfl

theorem decode_halves_mismatch {w : BitVec 72} (hs : List U16)
    (h : reqOp w = 0x5 ∨ (reqOp w = 0xB ∧ (reqFmt w = 0 ∨ reqFmt w = 4))) :
    decode (.req w (.halves hs)) = .error .payloadTypeMismatch := by
  obtain hop | ⟨hop, hfmt⟩ := h
  · exact decode_blitPixels hop
  · rw [decode_xmitData hop, decodeSource_halves_mismatch hs hfmt]
    rfl

/-- Settles O4: the decoder refuses each of the three, and a step decodes first. -/
theorem mismatchedPayloadsAndUnassignedBytesAreRefused :
    Obligations.MismatchedPayloadsAndUnassignedBytesAreRefused := fun _ _ bs hs _ _ =>
  ⟨fun hr h => step_of_undecodable hr (decode_bytes_mismatch bs h),
    fun hr h => step_of_undecodable hr (decode_halves_mismatch hs h),
    fun hr h => step_of_undecodable hr (decode_unassignedByte h)⟩

/-! ## Words of the spec, and the step -/

/-- Settles O5: the decoder, run on each of them. -/
theorem wordsOfTheSpecDecode : Obligations.WordsOfTheSpecDecode :=
  ⟨rfl, rfl, rfl, rfl, rfl, rfl, rfl, rfl, rfl⟩

theorem step_of_idle {s : State} (h : s.requests = []) : step s = .next s := by
  simp [step, runNextRequest, h]

/-- Settles O6: the decoder's answer decides the step, and without a request there is nothing to decode. -/
theorem stepRunsTheDecodedRequest : Obligations.StepRunsTheDecodedRequest := fun _ _ _ =>
  ⟨fun hs _ hd => step_of_decode hs hd, fun hs _ hd => step_of_undecodable hs hd, step_of_idle⟩

end Sys2Proof.Machine
end

section
/-! The command rows (30_encoding.md R58) and BLIT_PIXELS (44_pixel_api.md R134) as whole requests: the
length test, the refusals, and the state they leave where every answer is `ok`. -/

namespace Sys2Proof.Machine

/-! ## Command rows -/

/-- A row is XMIT_CMD of its byte in OPC (R58, R93). -/
theorem exec_of_command_eq_xmitCmd {i : Instr} {c : Command} (h : i.command? = some c) (s : State) :
    exec i s = exec (.xmitCmd (s.params.opc.get c)) s := exec_of_command h s

theorem latchesAfter_commandTrace (s : State) (c : Command) (l : Latches) :
    latchesAfter l (commandTrace s c) = latchesAfterXmit s.has .cmd l := latchesAfter_bracket ..

theorem latchesAfter_dataTrace (s : State) (src : Source) (l : Latches) :
    latchesAfter l (dataTrace s src) = latchesAfterXmit s.has .data l := latchesAfter_bracket ..

/-- Settles O10: a row runs one command transmission, which touches nothing but its calls' effects. -/
theorem commandRowsSendTheirByte : Obligations.CommandRowsSendTheirByte := by
  intro i c s hc
  refine ⟨exec_of_command_eq_xmitCmd hc s, fun hlive hok => ⟨(xmitCommand c s).st.env, ?_⟩⟩
  rw [← latchesAfter_commandTrace s c, ← (xmitCommand_ok c s hok).respond_eq_afterCalls]
  exact (exec_of_command hc s).trans (ifLive_live hlive _)

/-! ## The length of a blit -/

section

variable {s : State} {sx sy dx dy : U16} {data : List U8}

theorem execBlitPixels_of_length (hlive : s.released = false)
    (hlen : data.length = dx.toNat * dy.toNat * 2) :
    exec (.blitPixels sx sy dx dy data) s = blit sx sy dx dy data s :=
  (ifLive_live hlive _).trans (if_pos hlen)

theorem execBlitPixels_of_wrong_length (hlive : s.released = false)
    (hlen : data.length ≠ dx.toNat * dy.toNat * 2) :
    exec (.blitPixels sx sy dx dy data) s =
      respondLent (raiseErr s.params.eBlitLen (s.lend (.bytes data))) :=
  (ifLive_live hlive _).trans (if_neg hlen)

/-! ## The window of a blit -/

theorem blit_of_zero_extent (h : dx = 0 ∨ dy = 0) :
    blit sx sy dx dy data s = .refused .blitZeroExtent := if_pos h

theorem blit_of_end_overflow (hdx : dx ≠ 0) (hdy : dy ≠ 0)
    (h : 65536 ≤ blitEnd sx dx ∨ 65536 ≤ blitEnd sy dy) :
    blit sx sy dx dy data s = .refused .blitEndOverflow := by
  have hfits : ¬ (fits16 (blitEnd sx dx) && fits16 (blitEnd sy dy)) = true := by
    rw [Bool.and_eq_true, fits16_iff, fits16_iff]
    omega
  unfold blit
  rw [if_neg (not_or.2 ⟨hdx, hdy⟩), if_neg hfits]

/-- A blit of the right length that meets no row of R166's table has a window, which is sent (R134). -/
theorem execBlitPixels_of_not_refused (hlive : s.released = false)
    (hlen : data.length = dx.toNat * dy.toNat * 2) (h : ¬ BlitRefused s sx sy dx dy data) :
    dx ≠ 0 ∧ dy ≠ 0 ∧ ¬ WindowOverflows s sx sy (sx + dx - 1) (sy + dy - 1) ∧
      exec (.blitPixels sx sy dx dy data) s =
        respondLent (sendPixels sx sy (sx + dx - 1) (sy + dy - 1) (.u8 data)
          (s.lend (.bytes data))) := by
  simp only [BlitRefused, not_and, not_or, Nat.not_le] at h
  obtain ⟨hdx, hdy, hex, hey, hwin⟩ := h hlen
  have hfits : (fits16 (blitEnd sx dx) && fits16 (blitEnd sy dy)) = true := by
    rw [Bool.and_eq_true, fits16_iff, fits16_iff]
    exact ⟨hex, hey⟩
  refine ⟨hdx, hdy, hwin, ?_⟩
  rw [execBlitPixels_of_length hlive hlen, blit, if_neg (not_or.2 ⟨hdx, hdy⟩), if_pos hfits,
    narrow16_blitEnd hdx, narrow16_blitEnd hdy, ifWindowFits_of_fits hwin]

end

/-- Settles O32: the length is tested before anything else of a live request. -/
theorem blitLengthMismatchMakesNoCall : Obligations.BlitLengthMismatchMakesNoCall :=
  fun _ _ _ _ _ _ hlive hlen => execBlitPixels_of_wrong_length hlive hlen

/-- Settles O33: after the length, the extents and then the ends are tested. -/
theorem blitWithoutAWindowIsRefused : Obligations.BlitWithoutAWindowIsRefused :=
  fun _ _ _ _ _ _ hlive hlen =>
    ⟨fun h => (execBlitPixels_of_length hlive hlen).trans (blit_of_zero_extent h),
      fun hdx hdy h =>
        (execBlitPixels_of_length hlive hlen).trans (blit_of_end_overflow hdx hdy h)⟩

/-! ## A successful blit -/

/-- Window, memory write and one data write, all answers `ok` (R130). -/
theorem sendPixels_u8_ok (sx sy ex ey : U16) (p : List U8) (s : State) (h : AnswersOk s) :
    OkRun s (windowTrace s sx sy ex ey ++ commandTrace s .ramwr ++ dataTrace s (.u8 p))
      (sendPixels sx sy ex ey (.u8 p) s) := by
  obtain ⟨t, hemits, hq, hx⟩ := sendPixels_ok sx sy ex ey (.u8 p) s h
  obtain ⟨hemits', herr, hq'⟩ := xmitData_u8_ok p t (hemits.answersOk h)
  rw [dataTrace_of_emits hemits] at hemits'
  rw [hx]
  exact ⟨hemits.append hemits', herr, hq.trans hq'⟩

theorem latchesAfter_pixelTrace (s : State) (sx sy ex ey : U16) (src : Source) (l : Latches) :
    latchesAfter l (windowTrace s sx sy ex ey ++ commandTrace s .ramwr ++ dataTrace s src) =
      latchesAfterXmit s.has .data l := by
  rw [latchesAfter_append, latchesAfter_dataTrace, latchesAfter_append, latchesAfter_commandTrace,
    latchesAfter_windowTrace, latchesAfterXmit_latchesAfterXmit, latchesAfterXmit_latchesAfterXmit]

/-- A successful quiet run on a lent payload, and the response to it: the buffer goes back as lent. -/
theorem OkRun.respondLent_eq_afterCalls {s : State} {p : Payload} {es : List Event} {r : Run}
    (h : OkRun (s.lend p) es r) :
    respondLent r =
      .next { afterCalls s es (latchesAfter s.lvl es) .ok r.st.env with
              payload := p
              consumed := 0
              returned := s.returned ++ [{ buffer := p, consumed := 0 }] } := by
  obtain ⟨hemits, herr, hq⟩ := h
  rw [respondLent_eq, (response_ok_iff r).2 herr, hemits.rest, hemits.trace, hemits.lvl, hq.payload,
    hq.consumed, hq.buf8, hq.buf16, hq.phase]
  rfl

/-- Settles O31: not refused, the blit is the pixel request of its window. -/
theorem blitPixelsSendsItsBufferInOneWrite : Obligations.BlitPixelsSendsItsBufferInOneWrite := by
  intro s sx sy dx dy data hlive hok hlen href
  obtain ⟨-, -, -, hexec⟩ := execBlitPixels_of_not_refused hlive hlen href
  have hrun : OkRun (s.lend (.bytes data)) (windowTrace s sx sy (sx + dx - 1) (sy + dy - 1) ++
      commandTrace s .ramwr ++ dataTrace s (.u8 data)) _ :=
    sendPixels_u8_ok _ _ _ _ data (s.lend (.bytes data)) hok
  rw [hexec, hrun.respondLent_eq_afterCalls, latchesAfter_pixelTrace]
  exact ⟨_, rfl⟩

end Sys2Proof.Machine
end

section
/-! A composite request and the sequence of its parts (30_encoding.md R62): the two runs are taken through
pairs of states that differ only in what the host sees at a response. -/

namespace Sys2Proof.Machine

/-! ## Pairs of states that differ on the host's side -/

/-- The two states differ at most in the response record, the lent buffer with its count, and the buffers
given back: what issuing a request writes, and no call depends on. -/
def SameButHostSide (s t : State) : Prop :=
  t = { s with responses := t.responses, payload := t.payload, consumed := t.consumed,
               returned := t.returned }

section

variable {s s' t u : State} {r r' : Run}

theorem SameButHostSide.symm (h : SameButHostSide s t) : SameButHostSide t s := by
  unfold SameButHostSide; rw [h]

theorem SameButHostSide.trans (h : SameButHostSide s t) (k : SameButHostSide t u) :
    SameButHostSide s u := by
  unfold SameButHostSide
  conv_lhs => rw [k, h]

theorem sameButHostSide_pushResponse (s : State) (r : Response) :
    SameButHostSide s (s.pushResponse r) := rfl

theorem sameButHostSide_lend (s : State) (p : Payload) : SameButHostSide s (s.lend p) := rfl

theorem sameButHostSide_giveBack (s : State) : SameButHostSide s s.giveBack := rfl

/-- Nothing that decides a request is on the host's side. -/
theorem SameButHostSide.alike (h : SameButHostSide s t) : Alike s t := by
  rw [h]; exact ⟨rfl, rfl, rfl, rfl, rfl, rfl⟩

theorem SameButHostSide.released (h : SameButHostSide s t) : t.released = s.released := by rw [h]

/-- The same calls, with the staging buffers and the phase left the same, keep the two states so. -/
theorem SameButHostSide.after_calls (h : SameButHostSide s s') (hcalls : SameCalls s s' r r')
    (e : ∃ es, Emits s es r.st) (e' : ∃ es, Emits s' es r'.st) (h8 : r'.st.buf8 = r.st.buf8)
    (h16 : r'.st.buf16 = r.st.buf16) (hphase : r'.st.phase = r.st.phase) :
    SameButHostSide r.st r'.st := by
  obtain ⟨es, htrace, htrace'⟩ := hcalls.calls
  obtain ⟨xs, e⟩ := e
  obtain ⟨ys, e'⟩ := e'
  obtain rfl := List.append_cancel_left (htrace.symm.trans e.trace)
  obtain rfl := List.append_cancel_left (htrace'.symm.trans e'.trace)
  have hlvl : r'.st.lvl = r.st.lvl := by rw [e.lvl, e'.lvl, h]
  have hst : r'.st.trace = r.st.trace := by rw [e.trace, e'.trace, h]
  unfold SameButHostSide
  conv_lhs => rw [e'.rest, h8, h16, hphase, hlvl, hst, hcalls.alike.env, h]
  conv_rhs => rw [e.rest]
  simp [e'.responses, e'.returned]

theorem SameButHostSide.of_quiet (h : SameButHostSide s s') (hcalls : SameCalls s s' r r')
    (e : ∃ es, Emits s es r.st) (e' : ∃ es, Emits s' es r'.st) (q : Quiet s r.st)
    (q' : Quiet s' r'.st) : SameButHostSide r.st r'.st :=
  h.after_calls hcalls e e' (by rw [q.buf8, q'.buf8, h]) (by rw [q.buf16, q'.buf16, h])
    (by rw [q.phase, q'.phase, h])

end

/-! ## The staging buffers after a transmission -/

/-- Which staging buffer an encoder call leaves dead does not depend on the lent buffer (R18). -/
theorem encodeSource_staging (src : Source) (s : State) :
    (encodeSource src s).st.buf8 = buf8After s src ∧
      (encodeSource src s).st.buf16 = buf16After s src := by
  cases src with
  | u8 p => exact ⟨(encodeU8_quiet p s).buf8, (encodeU8_quiet p s).buf16⟩
  | u16 p => simp [encodeSource, encodeU16, busWriteOr_eq, busWrite_eq, buf8After, buf16After]
  | u16be p =>
    simp only [encodeSource, encodeU16BE, busWriteOr_eq, busWrite_eq]
    rw [convertInPlace_frame]
    exact ⟨rfl, rfl⟩
  | u16le p =>
    simp only [encodeSource, encodeU16LE, busWriteOr_eq, busWrite_eq]
    rw [convertInPlace_frame]
    exact ⟨rfl, rfl⟩
  | u8Iter p =>
    obtain ⟨-, h8, h16, -⟩ := gather8_leaves p (s.setBuf8 []) (by simp)
    exact ⟨h8, h16⟩
  | u16beIter p =>
    obtain ⟨-, h16, h8, -⟩ := gather16_leaves be16 p (s.setBuf16 []) (by simp)
    exact ⟨h8, h16⟩
  | u16leIter p =>
    obtain ⟨-, h16, h8, -⟩ := gather16_leaves le16 p (s.setBuf16 []) (by simp)
    exact ⟨h8, h16⟩
  | unsupported p => exact ⟨rfl, rfl⟩

theorem buf8After_congr {s t : State} (h : t.buf8 = s.buf8) (src : Source) :
    buf8After t src = buf8After s src := by
  cases src with
  | u8Iter p => rfl
  | _ => exact h

theorem buf16After_congr {s t : State} (h : t.buf16 = s.buf16) (src : Source) :
    buf16After t src = buf16After s src := by
  cases src with
  | u16beIter p | u16leIter p => rfl
  | _ => exact h

/-- The error of a transmission that did not reach its encoder (41_sequencer.md R90). -/
def BeforeEncoder (err : Option Err) : Prop := err = some .csFailed ∨ err = some .dcFailed

/-- An encoder call has no such error. -/
theorem encodeSource_not_beforeEncoder (src : Source) (s : State) :
    ¬ BeforeEncoder (encodeSource src s).err := by
  obtain ⟨es, -, h⟩ := encodeSource_spec src s
  generalize (encodeSource src s).err = err at h
  cases h <;> simp [BeforeEncoder]

/-- The error tells whether the encoder was reached, and so which staging buffers are dead. -/
theorem xmit_staging (kind : Kind) (src : Source) (s : State) :
    (BeforeEncoder (xmit kind src s).err →
        (xmit kind src s).st.buf8 = s.buf8 ∧ (xmit kind src s).st.buf16 = s.buf16) ∧
      (¬ BeforeEncoder (xmit kind src s).err →
        (xmit kind src s).st.buf8 = buf8After s src ∧
          (xmit kind src s).st.buf16 = buf16After s src) := by
  obtain ⟨-, ⟨hq, herr⟩ | ⟨t, hq, -, hq', herr⟩⟩ := xmit_spec kind src s
  · exact ⟨fun _ => ⟨hq.buf8, hq.buf16⟩, fun hnot => absurd herr hnot⟩
  · obtain ⟨h8, h16⟩ := encodeSource_staging src t
    exact ⟨fun hbefore => absurd (herr ▸ hbefore) (encodeSource_not_beforeEncoder src t), fun _ =>
      ⟨(hq'.buf8.trans h8).trans (buf8After_congr hq.buf8 src),
        (hq'.buf16.trans h16).trans (buf16After_congr hq.buf16 src)⟩⟩

/-- Two transmissions that end alike leave staging buffers that were the same the same. -/
theorem xmit_staging_same (kind : Kind) (src : Source) {s s' : State}
    (herr : (xmit kind src s').err = (xmit kind src s).err) (h8 : s'.buf8 = s.buf8)
    (h16 : s'.buf16 = s.buf16) :
    (xmit kind src s').st.buf8 = (xmit kind src s).st.buf8 ∧
      (xmit kind src s').st.buf16 = (xmit kind src s).st.buf16 := by
  obtain ⟨hunreached, hreached⟩ := xmit_staging kind src s
  obtain ⟨hunreached', hreached'⟩ := xmit_staging kind src s'
  rw [herr] at hunreached' hreached'
  by_cases hb : BeforeEncoder (xmit kind src s).err
  · obtain ⟨k8, k16⟩ := hunreached hb
    obtain ⟨k8', k16'⟩ := hunreached' hb
    exact ⟨by rw [k8, k8', h8], by rw [k16, k16', h16]⟩
  · obtain ⟨k8, k16⟩ := hreached hb
    obtain ⟨k8', k16'⟩ := hreached' hb
    exact ⟨by rw [k8, k8', buf8After_congr h8], by rw [k16, k16', buf16After_congr h16]⟩

/-- A transmission takes such a pair to such a pair, whatever its source. -/
theorem xmit_sameButHostSide (kind : Kind) (src : Source) {s s' : State}
    (h : SameButHostSide s s') :
    SameButHostSide (xmit kind src s).st (xmit kind src s').st := by
  have hcalls := xmit_same kind src h.alike
  obtain ⟨⟨es, e, -⟩, -⟩ := xmit_spec kind src s
  obtain ⟨⟨es', e', -⟩, -⟩ := xmit_spec kind src s'
  obtain ⟨h8, h16⟩ := xmit_staging_same kind src hcalls.err (by rw [h]) (by rw [h])
  exact h.after_calls hcalls ⟨es, e⟩ ⟨es', e'⟩ h8 h16 (by rw [xmit_phase, xmit_phase, h])

/-! ## Instructions issued one by one -/

theorem issueAll_singleton (i : Instr) (s : State) : issueAll [i] s = exec i s := by
  simp only [issueAll]
  cases exec i s with
  | next t => exact ite_self _
  | fault f => rfl
  | refused r => rfl

theorem issueAll_cons_of_ok {i : Instr} {s t : State} (is : List Instr) (h : exec i s = .next t)
    (hok : t.lastResponse = some .ok) : issueAll (i :: is) s = issueAll is t := by
  simp only [issueAll, h, if_pos hok]

theorem issueAll_cons_of_err {i : Instr} {s t : State} (is : List Instr) (h : exec i s = .next t)
    (herr : t.lastResponse ≠ some .ok) : issueAll (i :: is) s = .next t := by
  simp only [issueAll, h, if_neg herr]

/-- `u` is what `r` leaves, but for the host's side, and the last response in it is that to `r`. -/
structure RespondsTo (r : Run) (u : State) : Prop where
  state : SameButHostSide r.st u
  last : u.lastResponse = some r.response

theorem respond_respondsTo (r : Run) : RespondsTo r (r.st.pushResponse r.response) :=
  ⟨sameButHostSide_pushResponse _ _, lastResponse_pushResponse _ _⟩

theorem respondLent_respondsTo (r : Run) :
    RespondsTo r (r.st.giveBack.pushResponse r.response) :=
  ⟨(sameButHostSide_giveBack _).trans (sameButHostSide_pushResponse _ _),
    lastResponse_pushResponse _ _⟩

/-- A response to a run is one to a run with the same error and the same state but for the host's side. -/
theorem RespondsTo.congr {r r' : Run} {u : State} (h : RespondsTo r' u) (herr : r'.err = r.err)
    (hst : SameButHostSide r.st r'.st) : RespondsTo r u :=
  ⟨hst.trans h.state, by rw [h.last, Run.response, herr, Run.response]⟩

/-- The operation `f` only makes calls; and from a state that calls can reach from `s₀`, or one that differs
from it on the host's side, issuing the instructions `is` ends as `f` does and responds to it. -/
structure IssuedAs (s₀ : State) (f : State → Run) (is : List Instr) : Prop where
  calls : ∀ s, ∃ es, Emits s es (f s).st
  issued : ∀ s s' es, Emits s₀ es s → SameButHostSide s s' →
    ∃ u, issueAll is s' = .next u ∧ RespondsTo (f s) u

section

variable {s₀ : State}

/-- The second operation happens, and the rest of the list is issued, where the first raised nothing. -/
theorem IssuedAs.andThen {f g : State → Run} {i : Instr} {is : List Instr}
    (h : IssuedAs s₀ f [i]) (k : IssuedAs s₀ g is) :
    IssuedAs s₀ (fun s => (f s).andThen g) (i :: is) := by
  refine ⟨fun s => ?_, fun s s' es hs hss' => ?_⟩
  · obtain ⟨xs, hx⟩ := h.calls s
    obtain ⟨ys, hy⟩ := k.calls (f s).st
    cases hr : (f s).err with
    | none => rw [andThen_of_ok hr]; exact ⟨_, hx.append hy⟩
    | some e => rw [andThen_of_err hr]; exact ⟨_, hx⟩
  · obtain ⟨u, hu, hru⟩ := h.issued s s' es hs hss'
    rw [issueAll_singleton] at hu
    cases hr : (f s).err with
    | none =>
      obtain ⟨xs, hx⟩ := h.calls s
      have hok : u.lastResponse = some .ok := by rw [hru.last, (response_ok_iff _).2 hr]
      rw [issueAll_cons_of_ok is hu hok, andThen_of_ok hr]
      exact k.issued _ u _ (hs.append hx) hru.state
    | some e =>
      have herr : u.lastResponse ≠ some .ok := by simp [hru.last, response_ok_iff, hr]
      rw [issueAll_cons_of_err is hu herr, andThen_of_err hr]
      exact ⟨u, rfl, hru⟩

theorem issuedAs_xmitCmd (hlive : s₀.released = false) (c : U8) :
    IssuedAs s₀ (xmitCmd c) [.xmitCmd c] := by
  refine ⟨fun s => ?_, fun s s' es hs hss' => ?_⟩
  · obtain ⟨es, h, -⟩ := xmit_does .cmd (.u8 [c]) s
    exact ⟨es, h⟩
  · have hlive' : s'.released = false := by rw [hss'.released, hs.released, hlive]
    rw [issueAll_singleton]
    exact ⟨_, ifLive_live hlive' _, (respond_respondsTo _).congr (xmit_same _ _ hss'.alike).err
      (xmit_sameButHostSide _ _ hss')⟩

theorem issuedAs_xmitData (hlive : s₀.released = false) (src : Source) :
    IssuedAs s₀ (xmitData src) [.xmitData src] := by
  refine ⟨fun s => ?_, fun s s' es hs hss' => ?_⟩
  · obtain ⟨es, h, -⟩ := xmit_does .data src s
    exact ⟨es, h⟩
  · have hlive' : s'.released = false := by rw [hss'.released, hs.released, hlive]
    have hlent := hss'.trans (sameButHostSide_lend s' src.payload)
    rw [issueAll_singleton]
    exact ⟨_, ifLive_live hlive' _, (respondLent_respondsTo _).congr
      (xmit_same _ _ hlent.alike).err (xmit_sameButHostSide _ _ hlent)⟩

/-- XMIT_CMD of a byte of OPC is the command transmission of its mnemonic: no call writes the table. -/
theorem issuedAs_cmdPart (hlive : s₀.released = false) (c : Command) :
    IssuedAs s₀ (xmitCommand c) [cmdPart s₀ c] := by
  have h := issuedAs_xmitCmd hlive (s₀.params.opc.get c)
  refine ⟨fun s => ?_, fun s s' es hs hss' => ?_⟩
  · obtain ⟨es, h, -⟩ := xmitCommand_does c s
    exact ⟨es, h⟩
  · have hopc : xmitCommand c s = xmitCmd (s₀.params.opc.get c) s := by
      rw [xmitCommand, hs.params]
    rw [hopc]
    exact h.issued s s' es hs hss'

theorem issuedAs_wordPart (hlive : s₀.released = false) (v : U16) :
    IssuedAs s₀ (xmitData (.u8 (be16 v))) [wordPart v] := issuedAs_xmitData hlive _

/-- The six transmissions of the window are those of its expansion. -/
theorem issuedAs_windowParts (hlive : s₀.released = false) (sx sy ex ey : U16) :
    IssuedAs s₀ (fun s => (xmitCommand .caset s).andThen fun s =>
      (xmitCoordinate (physical sx s₀.xStart) s).andThen fun s =>
      (xmitCoordinate (physical ex s₀.xStart) s).andThen fun s =>
      (xmitCommand .raset s).andThen fun s =>
      (xmitCoordinate (physical sy s₀.yStart) s).andThen
        (xmitCoordinate (physical ey s₀.yStart)))
      (expand s₀ (.setAddressWindow sx sy ex ey)) :=
  (issuedAs_cmdPart hlive .caset).andThen <| (issuedAs_wordPart hlive _).andThen <|
    (issuedAs_wordPart hlive _).andThen <| (issuedAs_cmdPart hlive .raset).andThen <|
    (issuedAs_wordPart hlive _).andThen (issuedAs_wordPart hlive _)

theorem issuedAs_window (hlive : s₀.released = false) {sx sy ex ey : U16}
    (hfits : ¬ WindowOverflows s₀ sx sy ex ey) :
    IssuedAs s₀ (sendWindow sx sy ex ey) [.setAddressWindow sx sy ex ey] := by
  refine ⟨fun s => ?_, fun s s' es hs hss' => ?_⟩
  · obtain ⟨es, h, -⟩ := sendWindow_does sx sy ex ey s
    exact ⟨es, h⟩
  · have hlive' : s'.released = false := by rw [hss'.released, hs.released, hlive]
    have hfits' : ¬ WindowOverflows s' sx sy ex ey := by
      rw [WindowOverflows, hss'.alike.xStart, hss'.alike.yStart, hs.xStart, hs.yStart]
      exact hfits
    have hcalls := sendWindow_same sx sy ex ey hss'.alike
    obtain ⟨xs, hx, -⟩ := sendWindow_does sx sy ex ey s
    obtain ⟨ys, hy, -⟩ := sendWindow_does sx sy ex ey s'
    rw [issueAll_singleton]
    exact ⟨_, (ifLive_live hlive' _).trans (ifWindowFits_of_fits hfits' _),
      (respond_respondsTo _).congr hcalls.err (hss'.of_quiet hcalls ⟨xs, hx⟩ ⟨ys, hy⟩
        (sendWindow_quiet ..) (sendWindow_quiet ..))⟩

/-- Window, memory write and data: the shape of R130. -/
theorem issuedAs_pixels (hlive : s₀.released = false) {sx sy ex ey : U16}
    (hfits : ¬ WindowOverflows s₀ sx sy ex ey) (src : Source) :
    IssuedAs s₀ (sendPixels sx sy ex ey src)
      [.setAddressWindow sx sy ex ey, cmdPart s₀ .ramwr, .xmitData src] := by
  have h := (issuedAs_window hlive hfits).andThen
    ((issuedAs_cmdPart hlive .ramwr).andThen (issuedAs_xmitData hlive src))
  simp only [← andThen_assoc] at h
  exact h

theorem issuedAs_tearingFlag (hlive : s₀.released = false) (flag : U8) :
    IssuedAs s₀ (xmitTearingFlag flag) [cmdPart s₀ .teon, .xmitData (.u8 [flag])] :=
  (issuedAs_cmdPart hlive .teon).andThen (issuedAs_xmitData hlive _)

end

/-! ## Composites and their expansions -/

/-- The instruction and its expansion end as R62 has it. -/
def EqualsExpansion (i : Instr) (s : State) : Prop :=
  ∃ t u, exec i s = .next t ∧ issueAll (expand s i) s = .next u ∧
    t.lastResponse = u.lastResponse ∧ SameButHostSide t u

/-- An operation that the expansion issues, run by the instruction itself from `s` with its payload lent or
with none. -/
theorem IssuedAs.equalsExpansion {i : Instr} {s s₁ t : State} {f : State → Run}
    (h : IssuedAs s f (expand s i)) (hs₁ : Emits s [] s₁) (hhost : SameButHostSide s₁ s)
    (hexec : exec i s = .next t) (ht : RespondsTo (f s₁) t) : EqualsExpansion i s := by
  obtain ⟨u, hu, hru⟩ := h.issued s₁ s [] hs₁ hhost
  exact ⟨t, u, hexec, hu, ht.last.trans hru.last.symm, ht.state.symm.trans hru.state⟩

theorem IssuedAs.equalsExpansion_of_respond {i : Instr} {s : State} {f : State → Run}
    (h : IssuedAs s f (expand s i)) (hexec : exec i s = respond (f s)) : EqualsExpansion i s :=
  h.equalsExpansion (Emits.nil s) rfl hexec (respond_respondsTo _)

theorem IssuedAs.equalsExpansion_of_respondLent {i : Instr} {s : State} {p : Payload}
    {f : State → Run} (h : IssuedAs s f (expand s i))
    (hexec : exec i s = respondLent (f (s.lend p))) : EqualsExpansion i s :=
  h.equalsExpansion (lend_emits s p) (sameButHostSide_lend s p).symm hexec
    (respondLent_respondsTo _)

/-- An instruction that is no composite stands for itself. -/
theorem equalsExpansion_of_single {i : Instr} {s : State} (h : ¬ RefusedByRule s i)
    (hi : expand s i = [i]) : EqualsExpansion i s := by
  obtain ⟨t, ht⟩ := exec_next_of_not_refused h
  exact ⟨t, t, ht, by rw [hi, issueAll_singleton, ht], rfl, rfl⟩

theorem setAddressWindow_equalsExpansion {s : State} (hlive : s.released = false)
    {sx sy ex ey : U16} (hfits : ¬ WindowOverflows s sx sy ex ey) :
    EqualsExpansion (.setAddressWindow sx sy ex ey) s := by
  refine (issuedAs_windowParts hlive sx sy ex ey).equalsExpansion_of_respond ?_
  simp only [← andThen_assoc]
  exact (ifLive_live hlive _).trans (ifWindowFits_of_fits hfits _)

theorem setTearingEffect_equalsExpansion {s : State} (hlive : s.released = false)
    {mode : TearingMode} (hmode : mode ≠ .reserved) :
    EqualsExpansion (.setTearingEffect mode) s := by
  cases mode with
  | off => exact (issuedAs_cmdPart hlive .teoff).equalsExpansion_of_respond (ifLive_live hlive _)
  | vertical =>
    exact (issuedAs_tearingFlag hlive 0x00).equalsExpansion_of_respond (ifLive_live hlive _)
  | horizontalAndVertical =>
    exact (issuedAs_tearingFlag hlive 0x01).equalsExpansion_of_respond (ifLive_live hlive _)
  | reserved => exact absurd rfl hmode

theorem blitPixels_equalsExpansion {s : State} (hlive : s.released = false) {sx sy dx dy : U16}
    {data : List U8} (hlen : data.length = dx.toNat * dy.toNat * 2)
    (h : ¬ BlitRefused s sx sy dx dy data) :
    EqualsExpansion (.blitPixels sx sy dx dy data) s := by
  obtain ⟨hdx, hdy, hfits, hexec⟩ := execBlitPixels_of_not_refused hlive hlen h
  have hparts := issuedAs_pixels hlive hfits (.u8 data)
  rw [← narrow16_blitEnd hdx, ← narrow16_blitEnd hdy] at hparts hexec
  exact hparts.equalsExpansion_of_respondLent hexec

/-- Settles O53: a composite runs the operations that its parts run, issued one by one. -/
theorem compositeEqualsItsExpansion : Obligations.CompositeEqualsItsExpansion := by
  intro i s href hlen
  have hlive : s.released = false :=
    Bool.eq_false_iff.2 fun hrel => href (refusedByRule_of_released hrel i)
  have window : ∀ {sx sy ex ey o}, ¬ WindowOverflows s sx sy ex ey →
      ifLive s (ifWindowFits sx sy ex ey s o) = o := fun hw =>
    (ifLive_live hlive _).trans (ifWindowFits_of_fits hw _)
  change EqualsExpansion i s
  cases i with
  | setAddressWindow sx sy ex ey => exact setAddressWindow_equalsExpansion hlive (not_or.1 href).2
  | setPixel x y c =>
    have hfits := (not_or.1 href).2
    exact (issuedAs_pixels hlive hfits _).equalsExpansion_of_respond (window hfits)
  | setPixels sx sy ex ey colors =>
    have hfits := (not_or.1 href).2
    exact (issuedAs_pixels hlive hfits _).equalsExpansion_of_respondLent (window hfits)
  | blitPixels sx sy dx dy data =>
    exact blitPixels_equalsExpansion hlive (hlen _ _ _ _ _ rfl) (not_or.1 href).2
  | setScrollOffset v =>
    have hparts := (issuedAs_cmdPart hlive .vscad).andThen (issuedAs_wordPart hlive v)
    refine hparts.equalsExpansion_of_respond ?_
    exact ifLive_live hlive _
  | setTearingEffect mode =>
    exact setTearingEffect_equalsExpansion hlive (not_or.1 href).2
  | _ => exact equalsExpansion_of_single href rfl

end Sys2Proof.Machine
end

section
/-! The encoder call by call (40_encoder.md): the writes of a run in which none fails, where they are cut
(R78), and how far a run gets in which one fails (R70, R79). -/

namespace Sys2Proof.Machine

/-! ## Where a list is cut -/

/-- Every run but the last holds 32 elements (R75). -/
theorem cuts_length_of_not_last {α : Type} {l run : List α} {pre post : List (List α)}
    (h : cuts 32 l = pre ++ run :: post) (hpost : post ≠ []) : run.length = 32 := by
  have hcount : (l.length + 31) / 32 = pre.length + (post.length + 1) := by
    simpa [cuts] using congrArg List.length h
  have hrun : run = (l.drop (32 * pre.length)).take 32 := by
    have hget : (cuts 32 l)[pre.length]? = some run := by simp [h]
    have hlt : pre.length < (l.length + 31) / 32 := by omega
    simpa [cuts, List.getElem?_range hlt, eq_comm] using hget
  have hmore := List.length_pos_iff.2 hpost
  rw [hrun, List.length_take, List.length_drop]
  omega

theorem length_flatMap_pairs {f : U16 → List U8} (hf : ∀ v, (f v).length = 2) (p : List U16) :
    (p.flatMap f).length = p.length * 2 := by
  simp [List.length_flatMap, hf]

/-- Every run but the last fills the staging buffer of the 16-bit iterators, two bytes an element. -/
theorem cuts16_length_of_not_last {f : U16 → List U8} (hf : ∀ v, (f v).length = 2) {p : List U16}
    {w : List U8} {pre post : List (List U8)}
    (h : (cuts 32 p).map (fun run => run.flatMap f) = pre ++ w :: post) (hpost : post ≠ []) :
    w.length = 64 := by
  obtain ⟨runs, rest, hcuts, -, hrest⟩ := List.map_eq_append_iff.1 h
  obtain ⟨run, runs', rfl, rfl, rfl⟩ := List.map_eq_cons_iff.1 hrest
  rw [length_flatMap_pairs hf, cuts_length_of_not_last hcuts (by simpa using hpost)]

/-- Only a format with a staging buffer makes a second write, and only after a full one (R78). -/
theorem expectedWrites_length_of_not_last {native : ByteOrder} {src : Source} {w : List U8}
    {pre post : List (List U8)} (h : expectedWrites native src = pre ++ w :: post)
    (hpost : post ≠ []) : stagingBytes src = some w.length := by
  have hslice : ∀ bs : List U8, [bs] ≠ pre ++ w :: post := fun bs hbs => by
    obtain ⟨-, hlast⟩ | ⟨-, hnone⟩ := List.singleton_eq_append_iff.1 hbs
    · exact hpost (List.cons.inj hlast).2
    · cases hnone
  cases src with
  | u8 p | u16 p | u16be p | u16le p => exact absurd h (hslice _)
  | u8Iter p => exact congrArg some (cuts_length_of_not_last h hpost).symm
  | u16beIter p | u16leIter p =>
    exact congrArg some (cuts16_length_of_not_last (fun _ => rfl) h hpost).symm
  | unsupported p => simp [expectedWrites] at h

/-! ## The events of an encoder call -/

theorem flatten_busBytes_writes (ws : List (List U8)) (a : BusAnswer) :
    ((ws.map fun bs => Event.bus bs a).map Event.busBytes).flatten = ws.flatten := by
  simp [Function.comp_def, Event.busBytes]

/-- A successful write that is not the last is of a full staging buffer. -/
theorem writes_length_of_not_last {native : ByteOrder} {src : Source} {e : Event}
    {pre post : List Event}
    (h : (expectedWrites native src).map (fun bs => Event.bus bs .ok) = pre ++ e :: post)
    (hpost : post ≠ []) : stagingBytes src = some e.busBytes.length := by
  obtain ⟨ws, rest, hws, -, hrest⟩ := List.map_eq_append_iff.1 h
  obtain ⟨w, ws', rfl, rfl, rfl⟩ := List.map_eq_cons_iff.1 hrest
  exact expectedWrites_length_of_not_last hws (by simpa using hpost)

section

variable {native : ByteOrder} {src : Source} {es : List Event} {err : Option Err}

/-- An encoder call none of whose writes fails makes all of them; only `Unsupported` ends in an error (R80). -/
theorem EncodeOutcome.of_no_failure (h : EncodeOutcome native src es err)
    (hok : ∀ e ∈ es, e.failed = false) :
    es = (expectedWrites native src).map (fun bs => .bus bs .ok) ∧
      (err = none ↔ ∀ p, src ≠ .unsupported p) := by
  cases h with
  | all _ hsrc => exact ⟨rfl, iff_of_true rfl hsrc⟩
  | failed _ done rest bs _ =>
    have hfail := hok (.bus bs .fail) (by simp)
    cases hfail
  | unsupported p => exact ⟨rfl, iff_of_false (by simp) fun hsrc => hsrc p rfl⟩

/-- BusWriteFailed is the error of a failed write, and of nothing else (R70). -/
theorem EncodeOutcome.busWriteFailed_iff (h : EncodeOutcome native src es err) :
    err = some .busWriteFailed ↔ ∃ e ∈ es, e.failed = true := by
  cases h with
  | all => simp [Event.failed]
  | failed _ done rest bs _ => exact iff_of_true rfl ⟨.bus bs .fail, by simp, rfl⟩
  | unsupported p => simp

/-- A failed write is the last one, and what was handed to the bus up to and with it is a beginning of
`Bytes(fmt, p)` (R70, R81). -/
theorem EncodeOutcome.of_busWriteFailed (h : EncodeOutcome native src es (some .busWriteFailed)) :
    ∃ (done : List (List U8)) (bs : List U8), es = done.map (fun b => Event.bus b .ok) ++ [.bus bs .fail] ∧
      (es.map Event.busBytes).flatten <+: sourceBytes native src := by
  cases h with
  | failed _ done rest bs hws =>
    refine ⟨done, bs, rfl, rest.flatten, ?_⟩
    rw [List.map_append, List.flatten_append, flatten_busBytes_writes, ← expectedWrites_flatten, hws]
    simp [Event.busBytes]

end

/-- An iterator is consumed exactly as far as its elements were put into these writes (R79). -/
theorem encodeSource_consumed {src : Source} {s : State} {es : List Event}
    (htrace : (encodeSource src s).st.trace = s.trace ++ es) (hpull : pulledBytes src ≠ 0) :
    busCount es + pulledBytes src * s.consumed =
      pulledBytes src * (encodeSource src s).st.consumed := by
  obtain ⟨es', htrace', hcount⟩ := encodeSource_counts src s hpull
  obtain rfl : es = es' := List.append_cancel_left (htrace.symm.trans htrace')
  exact hcount

/-! ## The statements about every run of the encoder -/

/-- Settles O13: with no failed write, the outcome is that of the format. -/
theorem encoderMakesTheWritesOfItsFormat : Obligations.EncoderMakesTheWritesOfItsFormat := by
  intro src s
  obtain ⟨es, hemits, hout⟩ := encodeSource_spec src s
  exact ⟨es, hemits.trace, hout.of_no_failure⟩

/-- Settles O12: the writes of the format are cuts of `Bytes(fmt, p)` at full staging buffers. -/
theorem chunkingIsTransparent : Obligations.ChunkingIsTransparent := by
  intro src s
  obtain ⟨es, htrace, hwrites⟩ := encoderMakesTheWritesOfItsFormat src s
  refine ⟨es, htrace, fun hok => ?_⟩
  obtain ⟨rfl, -⟩ := hwrites hok
  refine ⟨?_, fun pre e post h hpost => writes_length_of_not_last h hpost, fun hasDc l => ?_⟩
  · rw [flatten_busBytes_writes, expectedWrites_flatten]
  · rw [wireFrom_writes, expectedWrites_flatten]

/-- Settles O14: the outcome says where a run stops, and the count how far its iterator was pulled. -/
theorem encoderStopsAtTheFirstFailedWrite : Obligations.EncoderStopsAtTheFirstFailedWrite := by
  intro src s
  obtain ⟨es, hemits, hout⟩ := encodeSource_spec src s
  refine ⟨es, hemits.trace, hout.busWriteFailed_iff, fun herr => ?_⟩
  rw [herr] at hout
  obtain ⟨done, bs, hes, hbegin⟩ := hout.of_busWriteFailed
  have hconsumed := encodeSource_consumed hemits.trace
  refine ⟨_, bs, hes, by simp, hbegin, ?_, ?_⟩
  · rintro p rfl
    have hcount := hconsumed (by simp [pulledBytes])
    simp only [busCount, pulledBytes, Nat.one_mul] at hcount
    omega
  · rintro p (rfl | rfl) <;>
    · have hcount := hconsumed (by simp [pulledBytes])
      simp only [busCount, pulledBytes] at hcount
      omega

end Sys2Proof.Machine
end

section
/-! XMIT_DATA (41_sequencer.md R94) and SET_PIXELS (44_pixel_api.md R133) as whole requests where every answer
is `ok`, and a buffer that an in-place format has converted, sent once more (70_reset_and_hazards.md R190). -/

namespace Sys2Proof.Machine

/-! ## A transmission of a lent source -/

/-- The run made the calls `es`, all with answer `ok`, and left what the encoder arm of `src` leaves of the
lent buffer, the count, the staging buffers and the phase. -/
structure OkLentRun (src : Source) (s : State) (es : List Event) (r : Run) : Prop where
  emits : Emits s es r.st
  response : r.response = dataResponse src
  payload : r.st.payload = payloadAfter s.params.nativeOrder src
  consumed : r.st.consumed = consumedAfter src
  buf8 : r.st.buf8 = buf8After s src
  buf16 : r.st.buf16 = buf16After s src
  phase : r.st.phase = s.phase

/-- No response of a successful XMIT_DATA is that of an unreached encoder. -/
theorem not_beforeEncoder_of_dataResponse {r : Run} {src : Source}
    (h : r.response = dataResponse src) : ¬ BeforeEncoder r.err := by
  rw [BeforeEncoder, ← response_err_iff, ← response_err_iff, h]
  cases src <;> simp [dataResponse]

/-- Where it raised no error, the encoder has pulled the whole of its iterator; `Unsupported` pulls nothing. -/
theorem encodeSource_consumed_of_dataResponse {src : Source} {s : State}
    (hp : s.payload = src.payload) (hc : s.consumed = 0)
    (hr : (encodeSource src s).response = dataResponse src) :
    (encodeSource src s).st.consumed = consumedAfter src := by
  obtain ⟨-, -, -, -, hall, -⟩ := encodeSource_leaves src s hp
  rw [hc, Nat.zero_add] at hall
  cases src with
  | unsupported p => exact hc
  | _ => exact hall ((response_ok_iff _).1 hr)

theorem response_congr {r r' : Run} (h : r'.err = r.err) : r'.response = r.response := by
  unfold Run.response; rw [h]

/-- A transmission all of whose calls answer `ok` reaches its encoder. -/
theorem xmit_okLent (kind : Kind) {src : Source} {s : State} (h : AnswersOk s)
    (hp : s.payload = src.payload) (hc : s.consumed = 0) :
    OkLentRun src s (bracketTrace s.has kind (expectedWrites s.params.nativeOrder src))
      (xmit kind src s) := by
  obtain ⟨hemits, hresp⟩ := xmit_ok kind src s h
  have hreached := not_beforeEncoder_of_dataResponse hresp
  obtain ⟨hbuf8, hbuf16⟩ := (xmit_staging kind src s).2 hreached
  obtain ⟨-, ⟨-, hbefore⟩ | ⟨t, hq, hparams, hq', herr⟩⟩ := xmit_spec kind src s
  · exact absurd hbefore hreached
  · have hpt := hq.payload.trans hp
    obtain ⟨hpayload, -⟩ := encodeSource_leaves src t hpt
    rw [hparams] at hpayload
    have hconsumed := encodeSource_consumed_of_dataResponse hpt (hq.consumed.trans hc)
      ((response_congr herr).trans hresp)
    exact ⟨hemits, hresp, hq'.payload.trans hpayload, hq'.consumed.trans hconsumed, hbuf8, hbuf16,
      xmit_phase kind src s⟩

/-- Calls before the transmission that touch nothing else only lengthen the trace. -/
theorem OkLentRun.after_quiet {src : Source} {s t : State} {xs ys : List Event} {r : Run}
    (h : OkLentRun src t ys r) (hemits : Emits s xs t) (hq : Quiet s t) :
    OkLentRun src s (xs ++ ys) r where
  emits := hemits.append h.emits
  response := h.response
  payload := by rw [← hemits.params]; exact h.payload
  consumed := h.consumed
  buf8 := h.buf8.trans (buf8After_congr hq.buf8 src)
  buf16 := h.buf16.trans (buf16After_congr hq.buf16 src)
  phase := h.phase.trans hq.phase

/-- The response to such a run on a source just lent, and the whole of the state it leaves (R32). -/
theorem OkLentRun.respondLent_eq {src : Source} {s : State} {p : Payload} {es : List Event} {r : Run}
    (h : OkLentRun src (s.lend p) es r) :
    respondLent r =
      .next { afterCalls s es (latchesAfter s.lvl es) (dataResponse src) r.st.env with
              payload := payloadAfter s.params.nativeOrder src
              consumed := consumedAfter src
              returned := s.returned ++
                [{ buffer := payloadAfter s.params.nativeOrder src, consumed := consumedAfter src }]
              buf8 := buf8After s src
              buf16 := buf16After s src } := by
  obtain ⟨hemits, hresp, hpayload, hconsumed, hbuf8, hbuf16, hphase⟩ := h
  rw [Machine.respondLent_eq, hresp, hemits.rest, hemits.trace, hemits.lvl, hpayload, hconsumed, hbuf8,
    hbuf16, hphase, buf8After_congr (State.lend_buf8 s p) src, buf16After_congr (State.lend_buf16 s p) src]
  rfl

/-! ## XMIT_DATA and SET_PIXELS -/

/-- Settles O11: a live XMIT_DATA is the transmission of its lent source, and the response to it. -/
theorem xmitDataSendsItsPayload : Obligations.XmitDataSendsItsPayload := by
  intro s src hlive hok
  have hrun : OkLentRun src (s.lend src.payload) (dataTrace s src) _ :=
    xmit_okLent .data (s := s.lend src.payload) hok rfl rfl
  refine ⟨(xmitData src (s.lend src.payload)).st.env, ?_⟩
  rw [← latchesAfter_dataTrace s src]
  exact (ifLive_live hlive _).trans hrun.respondLent_eq

/-- Window, memory write and the transmission of a lent source, all answers `ok` (R130). -/
theorem sendPixels_okLent (sx sy ex ey : U16) {src : Source} {s : State} (h : AnswersOk s)
    (hp : s.payload = src.payload) (hc : s.consumed = 0) :
    OkLentRun src s (windowTrace s sx sy ex ey ++ commandTrace s .ramwr ++ dataTrace s src)
      (sendPixels sx sy ex ey src s) := by
  obtain ⟨t, hemits, hq, hx⟩ := sendPixels_ok sx sy ex ey src s h
  rw [hx, ← dataTrace_of_emits hemits]
  exact (xmit_okLent .data (hemits.answersOk h) (hq.payload.trans hp)
    (hq.consumed.trans hc)).after_quiet hemits hq

/-- Settles O30: the window fits, so SET_PIXELS is the pixel request of its lent colours. -/
theorem setPixelsStreamsItsColours : Obligations.SetPixelsStreamsItsColours := by
  intro s sx sy ex ey colors hlive hok hfits
  have hrun : OkLentRun (.u16beIter colors) (s.lend (.halves colors))
      (windowTrace s sx sy ex ey ++ commandTrace s .ramwr ++ dataTrace s (.u16beIter colors)) _ :=
    sendPixels_okLent sx sy ex ey (s := s.lend (.halves colors)) hok rfl rfl
  refine ⟨(sendPixels sx sy ex ey (.u16beIter colors) (s.lend (.halves colors))).st.env, ?_⟩
  rw [← latchesAfter_pixelTrace s sx sy ex ey (.u16beIter colors)]
  exact ((ifLive_live hlive _).trans (ifWindowFits_of_fits hfits _)).trans hrun.respondLent_eq

/-! ## Sending a converted buffer again -/

theorem be16_bswap16 (v : U16) : be16 (bswap16 v) = le16 v := by
  rw [bswap16_eq_append]
  exact congrArg₂ (fun a b => [a, b]) BitVec.extractLsb'_append_eq_left
    BitVec.extractLsb'_append_eq_right

theorem le16_bswap16 (v : U16) : le16 (bswap16 v) = be16 v := by
  rw [← be16_bswap16, bswap16_bswap16]

/-- An environment that always answers `ok` goes on doing so after any instruction. -/
theorem exec_answersOk {i : Instr} {s t : State} (h : exec i s = .next t) (hok : AnswersOk s) :
    AnswersOk t := by
  obtain ⟨es, err, hd⟩ := exec_does i s t h
  exact envOk_answeredBy hok hd.env

/-- Two XMIT_DATA, one after the other: each sends its own source and leaves its own buffer. -/
theorem execXmitData_twice {s : State} {native : ByteOrder} (hlive : s.released = false)
    (hok : AnswersOk s) (hnative : s.params.nativeOrder = native) (src src' : Source) :
    ∃ t u, exec (.xmitData src) s = .next t ∧ t.payload = payloadAfter native src ∧
      exec (.xmitData src') t = .next u ∧ u.payload = payloadAfter native src' ∧
      t.trace = s.trace ++ bracketTrace s.has .data (expectedWrites native src) ∧
      u.trace = t.trace ++ bracketTrace s.has .data (expectedWrites native src') := by
  subst hnative
  obtain ⟨env, ht⟩ := xmitDataSendsItsPayload s src hlive hok
  have hok' := exec_answersOk ht hok
  obtain ⟨env', hu⟩ := xmitDataSendsItsPayload _ src' (by exact hlive) hok'
  exact ⟨_, _, ht, rfl, hu, rfl, rfl, rfl⟩

section

variable (p : List U16)

theorem map_bswap16_map_bswap16 : (p.map bswap16).map bswap16 = p := by
  simp [Function.comp_def, bswap16_bswap16]

theorem flatMap_be16_map_bswap16 : (p.map bswap16).flatMap be16 = p.flatMap le16 := by
  simp [List.flatMap_map, be16_bswap16]

theorem flatMap_le16_map_bswap16 : (p.map bswap16).flatMap le16 = p.flatMap be16 := by
  simp [List.flatMap_map, le16_bswap16]

/-- An in-place format swaps the buffer of a host of the other byte order (R73, R74). -/
theorem payloadAfter_u16be_of_le : payloadAfter .le (.u16be p) = .halves (p.map bswap16) := rfl

theorem payloadAfter_u16le_of_be : payloadAfter .be (.u16le p) = .halves (p.map bswap16) := rfl

/-- It leaves that of a host of its own byte order. -/
theorem payloadAfter_u16be_of_be : payloadAfter .be (.u16be p) = .halves p :=
  congrArg _ (List.map_id p)

theorem payloadAfter_u16le_of_le : payloadAfter .le (.u16le p) = .halves p :=
  congrArg _ (List.map_id p)

end

/-- Settles O16: the second request sends the swapped values in the format's order, and swaps them back. -/
theorem sendingAConvertedBufferAgainSwapsIt : Obligations.SendingAConvertedBufferAgainSwapsIt := by
  intro s p hlive hok
  refine ⟨fun hle => ?_, fun hbe => ?_, fun hbe => ?_, fun hle => ?_⟩
  · obtain ⟨t, u, ht, hpt, hu, hpu, htrace, htrace'⟩ :=
      execXmitData_twice hlive hok hle (.u16be p) (.u16be (p.map bswap16))
    rw [payloadAfter_u16be_of_le] at hpt hpu
    rw [map_bswap16_map_bswap16] at hpu
    rw [expectedWrites, flatMap_be16_map_bswap16] at htrace'
    exact ⟨t, _, u, ht, hpt, hu, hpu, htrace, htrace'⟩
  · obtain ⟨t, u, ht, hpt, hu, hpu, htrace, htrace'⟩ :=
      execXmitData_twice hlive hok hbe (.u16le p) (.u16le (p.map bswap16))
    rw [payloadAfter_u16le_of_be] at hpt hpu
    rw [map_bswap16_map_bswap16] at hpu
    rw [expectedWrites, flatMap_le16_map_bswap16] at htrace'
    exact ⟨t, _, u, ht, hpt, hu, hpu, htrace, htrace'⟩
  · rw [← payloadAfter_u16be_of_be p]
    exact execXmitData_twice hlive hok hbe (.u16be p) (.u16be p)
  · rw [← payloadAfter_u16le_of_le p]
    exact execXmitData_twice hlive hok hle (.u16le p) (.u16le p)

end Sys2Proof.Machine
end

section
/-! One transmission (41_sequencer.md R90 to R96): XMIT_CMD by the environment's answers, the host's buffer
after XMIT_DATA, and where in its bracket a transmission drives chip-select and writes to the bus. -/

namespace Sys2Proof.Machine

/-! ## XMIT_CMD -/

/-- A quiet run, however it ended, and the response to it: nothing else differs. -/
theorem Emits.respond_eq_afterCalls {s : State} {es : List Event} {r : Run} (h : Emits s es r.st)
    (hq : Quiet s r.st) :
    respond r = .next (afterCalls s es (latchesAfter s.lvl es) r.response r.st.env) := by
  rw [respond_eq, h.rest, h.trace, h.lvl, hq.payload, hq.consumed, hq.buf8, hq.buf16, hq.phase]
  rfl

/-- A live XMIT_CMD is one transmission of its byte, and touches nothing but its calls' effects. -/
theorem execXmitCmd_eq_afterCalls {c : U8} {s : State} {es : List Event} (hlive : s.released = false)
    (h : Emits s es (xmitCmd c s).st) :
    exec (.xmitCmd c) s =
      .next (afterCalls s es (latchesAfter s.lvl es) (xmitCmd c s).response (xmitCmd c s).st.env) :=
  (ifLive_live hlive _).trans (h.respond_eq_afterCalls (xmitU8_quiet .cmd [c] s))

/-- Settles O9: where every call answers `ok`, the transmission makes the trace of R95. -/
theorem xmitCmdSendsItsByte : Obligations.XmitCmdSendsItsByte := by
  intro s c hlive hok
  obtain ⟨hemits, hresp : (xmitCmd c s).response = .ok⟩ := xmit_ok .cmd (.u8 [c]) s hok
  refine ⟨(xmitCmd c s).st.env, ?_⟩
  rw [← latchesAfter_bracket s .cmd [[c]] s.lvl, ← hresp]
  exact execXmitCmd_eq_afterCalls hlive hemits

/-! ## XMIT_CMD by the place it fails -/

/-- The rows of R96 for a command with CS and DC present: its events and its error, by the environment's
first four answers and CS_RELEASE_ON_ASSERT_FAIL. -/
def commandRow (release : Bool) (c : U8) : (a0 a1 a2 a3 : Answer) → List Event × Option Err
  | .fail e, a1, _, _ =>
    (.pin .cs .low (.fail e) :: (if release then [.pin .cs .high a1] else []), some .csFailed)
  | .ok, .fail e, a2, _ =>
    ([.pin .cs .low .ok, .pin .dc .low (.fail e), .pin .cs .high a2], some .dcFailed)
  | .ok, .ok, .fail _, a3 =>
    ([.pin .cs .low .ok, .pin .dc .low .ok, .bus [c] .fail, .pin .cs .high a3], some .busWriteFailed)
  | .ok, .ok, .ok, a3 =>
    ([.pin .cs .low .ok, .pin .dc .low .ok, .bus [c] .ok, .pin .cs .high a3], none)

theorem answer_eq_fail {a : Answer} (h : a ≠ .ok) : ∃ e, a = .fail e := by
  cases a with
  | ok => exact absurd rfl h
  | fail e => exact ⟨e, rfl⟩

theorem busAnswer_eq_ok {a : Answer} (h : .ok = busAnswer a) : a = .ok := by
  cases a with
  | ok => rfl
  | fail e => cases h

theorem busAnswer_eq_fail {a : Answer} (h : .fail = busAnswer a) : ∃ e, a = .fail e := by
  cases a with
  | ok => cases h
  | fail e => exact ⟨e, rfl⟩

/-- The answers an environment gave to a command transmission choose its row. -/
theorem XmitOutcome.eq_commandRow {s : State} {c : U8} {es : List Event} {err : Option Err} {env : Env}
    (h : XmitOutcome s .cmd (.u8 [c]) es err) (ha : answeredBy s.env es env)
    (hcs : s.has.cs = true) (hdc : s.has.dc = true) :
    (es, err) = commandRow s.params.csReleaseOnAssertFail c (s.env.answer 0) (s.env.answer 1)
      (s.env.answer 2) (s.env.answer 3) := by
  cases h with
  | assertFailed e a =>
    obtain ⟨h0, ha⟩ := ha
    rw [← h0]
    cases hr : s.params.csReleaseOnAssertFail with
    | false => rfl
    | true =>
      simp only [hr, if_true, answeredBy, Env.answer_next] at ha
      obtain ⟨rfl, -⟩ := ha
      rfl
  | selectFailed e a =>
    simp only [hcs, ifPresent, if_true, List.cons_append, List.nil_append, answeredBy,
      Env.answer_next] at ha ⊢
    obtain ⟨h0, h1, rfl, -⟩ := ha
    rw [← h0, ← h1]
    rfl
  | encoded ws err a hws =>
    cases hws with
    | all =>
      simp only [hcs, hdc, ifPresent, if_true, expectedWrites, List.map_cons, List.map_nil,
        List.cons_append, List.nil_append, answeredBy, Env.answer_next] at ha ⊢
      obtain ⟨h0, h1, h2, rfl, -⟩ := ha
      rw [← h0, ← h1, busAnswer_eq_ok h2]
      rfl
    | failed _ done rest bs hsplit =>
      obtain ⟨rfl, hbs⟩ | ⟨-, hrest⟩ := List.singleton_eq_append_iff.1 hsplit
      · obtain ⟨rfl, -⟩ := List.cons.inj hbs
        simp only [hcs, hdc, ifPresent, if_true, List.map_nil, List.cons_append, List.nil_append,
          answeredBy, Env.answer_next] at ha ⊢
        obtain ⟨h0, h1, h2, rfl, -⟩ := ha
        obtain ⟨e, h2⟩ := busAnswer_eq_fail h2
        rw [← h0, ← h1, h2]
        rfl
      · cases hrest

theorem response_eq_elim (r : Run) : r.response = r.err.elim .ok .err := by
  unfold Run.response
  cases r.err <;> rfl

/-- A live XMIT_CMD with CS and DC present makes the calls of its row and responds as the row says. -/
theorem execXmitCmd_eq_commandRow {c : U8} {s : State} {row : List Event × Option Err}
    (hlive : s.released = false) (hcs : s.has.cs = true) (hdc : s.has.dc = true)
    (hrow : commandRow s.params.csReleaseOnAssertFail c (s.env.answer 0) (s.env.answer 1)
      (s.env.answer 2) (s.env.answer 3) = row) :
    ∃ env, exec (.xmitCmd c) s =
      .next (afterCalls s row.1 (latchesAfter s.lvl row.1) (row.2.elim .ok .err) env) := by
  obtain ⟨⟨es, hemits, hout⟩, -⟩ := xmit_spec .cmd (.u8 [c]) s
  obtain rfl := (hout.eq_commandRow hemits.env hcs hdc).trans hrow
  exact ⟨_, response_eq_elim (xmitCmd c s) ▸ execXmitCmd_eq_afterCalls hlive hemits⟩

/-- Settles O18: the row that the answers choose, and the latches that its events leave. -/
theorem commandTransmissionByPlaceOfFailure : Obligations.CommandTransmissionByPlaceOfFailure := by
  intro s c a0 a1 a2 a3 hlive hcs hdc h0 h1 h2 h3
  have hexec := execXmitCmd_eq_commandRow (c := c) hlive hcs hdc rfl
  rw [h0, h1, h2, h3] at hexec
  refine ⟨?_, fun hne hrelease => ?_, fun hne hrelease => ?_, ?_, ?_⟩
  · rintro rfl rfl rfl
    exact hexec
  · obtain ⟨e, rfl⟩ := answer_eq_fail hne
    rwa [hrelease] at hexec
  · obtain ⟨e, rfl⟩ := answer_eq_fail hne
    rwa [hrelease] at hexec
  · rintro rfl hne
    obtain ⟨e, rfl⟩ := answer_eq_fail hne
    exact hexec
  · rintro rfl rfl hne
    obtain ⟨e, rfl⟩ := answer_eq_fail hne
    exact hexec

/-! ## The host's buffer after XMIT_DATA -/

/-- The error tells whether the encoder was reached, and so whether it had the lent buffer. -/
theorem xmit_payload (kind : Kind) {src : Source} {s : State} (hp : s.payload = src.payload) :
    (BeforeEncoder (xmit kind src s).err → (xmit kind src s).st.payload = src.payload) ∧
      (¬ BeforeEncoder (xmit kind src s).err →
        (xmit kind src s).st.payload = payloadAfter s.params.nativeOrder src) := by
  obtain ⟨-, ⟨hq, herr⟩ | ⟨t, hq, hparams, hq', herr⟩⟩ := xmit_spec kind src s
  · exact ⟨fun _ => hq.payload.trans hp, fun hnot => absurd herr hnot⟩
  · obtain ⟨hpayload, -⟩ := encodeSource_leaves src t (hq.payload.trans hp)
    rw [hparams] at hpayload
    exact ⟨fun hbefore => absurd (herr ▸ hbefore) (encodeSource_not_beforeEncoder src t),
      fun _ => hq'.payload.trans hpayload⟩

/-- Settles O15: the response tells whether the encoder was reached. -/
theorem hostBufferAfterXmitData : Obligations.HostBufferAfterXmitData := by
  intro s t src h
  obtain ⟨-, h⟩ := ifLive_next h
  obtain rfl := next_inj h
  obtain ⟨hunreached, hreached⟩ := xmit_payload .data (s := s.lend src.payload) (src := src) rfl
  simp only [lastResponse_pushResponse, Option.some_inj, ne_eq]
  rw [response_err_iff, response_err_iff]
  exact ⟨hunreached, fun hcs hdc => hreached (not_or.2 ⟨hcs, hdc⟩)⟩

/-! ## Chip-select -/

theorem EncodeOutcome.no_pin {native : ByteOrder} {src : Source} {ws : List Event} {err : Option Err}
    (h : EncodeOutcome native src ws err) (l : Line) (v : Drive) (a : Answer) : .pin l v a ∉ ws := by
  intro hm
  obtain ⟨bs, b, hb⟩ := h.bus _ hm
  cases hb

theorem mem_ifPresent {b : Bool} {x e : Event} (h : x ∈ ifPresent b e) : x = e := by
  cases b with
  | false => cases h
  | true => exact List.mem_singleton.1 h

/-- A transmission with CS present is bracketed by one assertion and one deassertion (R92 (b)); after a
failed assertion the deassertion follows at once. -/
theorem XmitOutcome.bracketed {s : State} {kind : Kind} {src : Source} {es : List Event}
    {err : Option Err} (h : XmitOutcome s kind src es err) (hcs : s.has.cs = true)
    (hrelease : s.params.csReleaseOnAssertFail = true) :
    ∃ a inner b, es = [.pin .cs .low a] ++ inner ++ [.pin .cs .high b] ∧
      (∀ v c, .pin .cs v c ∉ inner) ∧ (a ≠ .ok → inner = []) := by
  cases h with
  | assertFailed e a => exact ⟨.fail e, [], a, by simp [hrelease], by simp, fun _ => rfl⟩
  | selectFailed e a =>
    exact ⟨.ok, [.pin .dc kind.dcLevel (.fail e)], a, by simp [hcs, ifPresent], by simp,
      fun hne => absurd rfl hne⟩
  | encoded ws err a hws =>
    refine ⟨.ok, ifPresent s.has.dc (.pin .dc kind.dcLevel .ok) ++ ws, a, by simp [hcs, ifPresent],
      fun v c hm => ?_, fun hne => absurd rfl hne⟩
    obtain hm | hm := List.mem_append.1 hm
    · cases mem_ifPresent hm
    · exact hws.no_pin .cs v c hm

/-- Settles O19: the bracket of each outcome. -/
theorem everyTransmissionDeassertsChipSelectOnce :
    Obligations.EveryTransmissionDeassertsChipSelectOnce := by
  intro kind src s hcs hrelease
  obtain ⟨⟨es, hemits, hout⟩, -⟩ := xmit_spec kind src s
  obtain ⟨a, inner, b, rfl, hbracket⟩ := hout.bracketed hcs hrelease
  exact ⟨a, inner, b, hemits.trace, hbracket⟩

/-! ## Bus writes -/

/-- Every bus write of the events is made while the latches are as `P` says. -/
def AtBusWrites (P : Latches → Prop) (l : Latches) (es : List Event) : Prop :=
  ∀ pre bs b post, es = pre ++ .bus bs b :: post → P (latchesAfter l pre)

section

variable {P : Latches → Prop} {l : Latches} {xs ys : List Event}

theorem atBusWrites_of_none (h : ∀ bs b, Event.bus bs b ∉ xs) : AtBusWrites P l xs := by
  rintro pre bs b post rfl
  exact absurd (by simp) (h bs b)

theorem atBusWrites_of_all (h : ∀ e ∈ xs, ∃ bs b, e = .bus bs b) (hl : P l) : AtBusWrites P l xs := by
  rintro pre bs b post rfl
  rwa [latchesAfter_bus fun e he => h e (List.mem_append_left _ he)]

theorem AtBusWrites.append (hx : AtBusWrites P l xs) (hy : AtBusWrites P (latchesAfter l xs) ys) :
    AtBusWrites P l (xs ++ ys) := by
  intro pre bs b post h
  obtain ⟨as, rfl, has⟩ | ⟨as, rfl, has⟩ := List.append_eq_append_iff.1 h
  · rw [latchesAfter_append]
    exact hy as bs b post has
  · cases as with
    | nil => simpa using hy [] bs b post (by simpa using has.symm)
    | cons a as =>
      obtain ⟨rfl, -⟩ := List.cons.inj has
      exact hx pre bs b as rfl

end

/-- DC, if present, at the level of the kind, and CS, if present, low (R92 (a), (c)). -/
def InBracket (has : Straps) (kind : Kind) (l : Latches) : Prop :=
  (has.dc = true → l.dc = kind.dcLevel.level) ∧ (has.cs = true → l.cs = .low)

/-- Steps 1 and 2 of R90, both answered `ok`, leave the latches that step 3 needs. -/
theorem inBracket_after_select (has : Straps) (kind : Kind) (l : Latches) :
    InBracket has kind (latchesAfter (latchesAfter l (ifPresent has.cs (.pin .cs .low .ok)))
      (ifPresent has.dc (.pin .dc kind.dcLevel .ok))) := by
  constructor
  · intro hdc
    simp only [hdc]
    rfl
  · intro hcs
    simp only [hcs]
    cases has.dc <;> rfl

theorem atBusWrites_ifPresent_pin {P : Latches → Prop} {l : Latches} {b : Bool} {line : Line} {v : Drive}
    {a : Answer} : AtBusWrites P l (ifPresent b (.pin line v a)) :=
  atBusWrites_of_none fun _ _ hm => nomatch mem_ifPresent hm

/-- The encoder, which alone writes to the bus, runs inside the bracket. -/
theorem XmitOutcome.atBusWrites {s : State} {kind : Kind} {src : Source} {es : List Event}
    {err : Option Err} (h : XmitOutcome s kind src es err) (l : Latches) :
    AtBusWrites (InBracket s.has kind) l es := by
  cases h with
  | assertFailed e a =>
    cases s.params.csReleaseOnAssertFail <;> exact atBusWrites_of_none (by simp)
  | selectFailed e a =>
    exact atBusWrites_ifPresent_pin.append
      ((atBusWrites_of_none (by simp)).append atBusWrites_ifPresent_pin)
  | encoded ws err a hws =>
    exact atBusWrites_ifPresent_pin.append (atBusWrites_ifPresent_pin.append
      ((atBusWrites_of_all hws.bus (inBracket_after_select s.has kind l)).append atBusWrites_ifPresent_pin))

/-- Settles O20: the bus writes of each outcome, and the events that no transmission makes. -/
theorem busWritesAreMadeInsideTheirBracket : Obligations.BusWritesAreMadeInsideTheirBracket := by
  intro kind src s
  obtain ⟨⟨es, hemits, hout⟩, -⟩ := xmit_spec kind src s
  exact ⟨es, hemits.trace, hout.atBusWrites s.lvl,
    fun _ _ => ⟨fun hm => hout.events _ hm, fun hm => hout.events _ hm⟩, fun _ hm => hout.events _ hm⟩

end Sys2Proof.Machine
end

section
/-! INIT (42_init.md R100 to R108): its trace as four transitions, the latches and the number of events each
adds, and the state after an INIT in which every call answers `ok`. -/

namespace Sys2Proof.Machine

/-- Settles O39: a success ends with the last phase write of R100, an error with that of R105. -/
theorem initPhaseFollowsItsResponse : Obligations.InitPhaseFollowsItsResponse := by
  intro s t h
  obtain ⟨hok, hphase⟩ | ⟨herr, hphase⟩ := execInit_phase h
  · exact ⟨fun _ => hphase, fun herr => absurd hok herr⟩
  · exact ⟨fun hok => absurd hok herr, fun _ => hphase⟩

/-- The concatenation R108 speaks of, by the names of its parts. -/
theorem initTrace_eq_transitions (s : State) :
    initTrace s = hardResetTrace s ++ backlightTrace s ++ s.params.regProgram.flatMap (stepTrace s) ++
      displayOnTrace s := by
  simp [initTrace, hardResetTrace, backlightTrace, displayOnTrace]

/-! ## The latches after each transition -/

theorem latchesAfter_hardResetTrace (s : State) (l : Latches) :
    latchesAfter l (hardResetTrace s) = { l with rst := if s.has.rst then .high else l.rst } := by
  unfold hardResetTrace
  cases s.has.rst <;> rfl

theorem latchesAfter_backlightTrace (s : State) (l : Latches) :
    latchesAfter l (backlightTrace s) = { l with bl := if s.has.bl then .high else l.bl } := by
  unfold backlightTrace
  cases s.has.bl <;> rfl

theorem latchesAfter_delay (l : Latches) (n : U32) : latchesAfter l [.delay n] = l := rfl

/-- A step of the register program only transmits: a command after it sets all the latches it has set. -/
theorem latchesAfterXmit_stepTrace (s : State) (r : RegStep) (l : Latches) :
    latchesAfterXmit s.has .cmd (latchesAfter l (stepTrace s r)) = latchesAfterXmit s.has .cmd l := by
  rw [stepTrace, latchesAfter_append, latchesAfter_delay, latchesAfter_append, latchesAfter_bracket]
  split
  · exact latchesAfterXmit_latchesAfterXmit ..
  · rw [latchesAfter_dataTrace, latchesAfterXmit_latchesAfterXmit, latchesAfterXmit_latchesAfterXmit]

theorem latchesAfterXmit_programTrace (s : State) (rs : List RegStep) (l : Latches) :
    latchesAfterXmit s.has .cmd (latchesAfter l (rs.flatMap (stepTrace s))) =
      latchesAfterXmit s.has .cmd l := by
  induction rs generalizing l with
  | nil => rfl
  | cons r rs ih => rw [List.flatMap_cons, latchesAfter_append, ih, latchesAfterXmit_stepTrace]

theorem latchesAfter_displayOnTrace (s : State) (l : Latches) :
    latchesAfter l (displayOnTrace s) = latchesAfterXmit s.has .cmd l := by
  simp only [displayOnTrace, latchesAfter_append, latchesAfter_commandTrace, latchesAfter_delay,
    latchesAfterXmit_latchesAfterXmit]

theorem latchesAfter_initTrace (s : State) (l : Latches) :
    latchesAfter l (initTrace s) = latchesAfterInit s.has l := by
  rw [initTrace_eq_transitions, latchesAfter_append, latchesAfter_displayOnTrace, latchesAfter_append,
    latchesAfterXmit_programTrace, latchesAfter_append, latchesAfter_backlightTrace,
    latchesAfter_hardResetTrace]
  rfl

/-! ## A successful INIT -/

/-- The four transitions, and the response to them: nothing differs but by the calls and the phase. -/
theorem execInit_of_answersOk {s : State} (hlive : s.released = false) (hok : AnswersOk s) :
    exec .init s =
      .next { afterCalls s (initTrace s) (latchesAfterInit s.has s.lvl) .ok (initSequence s).st.env with
              phase := .displayOn } := by
  obtain ⟨hemits, herr⟩ := initSequence_ok s hok
  have hq := initSequence_quiet s
  have hexec : exec .init s = respond (unpoweredOnError (initSequence s)) := ifLive_live hlive _
  rw [hexec, unpoweredOnError_of_ok herr, respond_eq, (response_ok_iff _).2 herr, hemits.rest, hemits.trace,
    hemits.lvl, hq.payload, hq.consumed, hq.buf8, hq.buf16, initSequence_phase s herr, latchesAfter_initTrace]
  rfl

/-- Settles O38: the trace, the latches and the phase that the four transitions leave. -/
theorem initRunsItsFourTransitions : Obligations.InitRunsItsFourTransitions :=
  fun _ hlive hok => ⟨_, execInit_of_answersOk hlive hok⟩

/-! ## The number of events -/

/-- The events of a successful transmission of one bus write (R95). -/
def transmissionLength (has : Straps) : Nat := 1 + 2 * has.cs.toNat + has.dc.toNat

theorem length_ifPresent (present : Bool) (e : Event) : (ifPresent present e).length = present.toNat := by
  cases present <;> rfl

theorem length_bracketTrace_single (has : Straps) (kind : Kind) (bs : List U8) :
    (bracketTrace has kind [bs]).length = transmissionLength has := by
  simp only [bracketTrace, List.length_append, length_ifPresent, List.length_map, List.length_singleton,
    transmissionLength]
  omega

theorem length_hardResetTrace (s : State) : (hardResetTrace s).length = 6 * s.has.rst.toNat := by
  unfold hardResetTrace
  cases s.has.rst <;> rfl

theorem length_backlightTrace (s : State) : (backlightTrace s).length = 3 * s.has.bl.toNat := by
  unfold backlightTrace
  cases s.has.bl <;> rfl

/-- The command, the data if there is any, and the delay (R103). -/
theorem length_stepTrace (s : State) (r : RegStep) :
    (stepTrace s r).length =
      (1 + (decide (r.data ≠ [])).toNat) * transmissionLength s.has + 1 := by
  have hdata : (dataTrace s (.u8 r.data)).length = transmissionLength s.has :=
    length_bracketTrace_single ..
  simp only [stepTrace, List.length_append, length_bracketTrace_single, List.length_singleton]
  by_cases h : r.data = []
  · simp [h]
  · rw [if_neg h, hdata, decide_eq_true h, Bool.toNat_true]
    ring

/-- The steps of a register program that have data. -/
def stepsWithData (rs : List RegStep) : List RegStep := rs.filter (fun r => decide (r.data ≠ []))

theorem length_stepsWithData_cons (r : RegStep) (rs : List RegStep) :
    (stepsWithData (r :: rs)).length = (decide (r.data ≠ [])).toNat + (stepsWithData rs).length := by
  unfold stepsWithData
  by_cases h : r.data = [] <;> simp [h, Nat.add_comm]

theorem length_programTrace (s : State) (rs : List RegStep) :
    (rs.flatMap (stepTrace s)).length =
      (rs.length + (stepsWithData rs).length) * transmissionLength s.has + rs.length := by
  induction rs with
  | nil => simp [stepsWithData]
  | cons r rs ih =>
    rw [List.flatMap_cons, List.length_append, length_stepTrace, ih, length_stepsWithData_cons,
      List.length_cons]
    ring

theorem length_displayOnTrace (s : State) :
    (displayOnTrace s).length = 3 * transmissionLength s.has + 3 := by
  simp only [displayOnTrace, commandTrace, List.length_append, length_bracketTrace_single,
    List.length_singleton]
  omega

theorem length_initTrace (s : State) :
    (initTrace s).length =
      6 * s.has.rst.toNat + 3 * s.has.bl.toNat +
        (s.params.regProgram.length + (stepsWithData s.params.regProgram).length + 3) *
          transmissionLength s.has + s.params.regProgram.length + 3 := by
  simp only [initTrace_eq_transitions, List.length_append, length_hardResetTrace, length_backlightTrace,
    length_programTrace, length_displayOnTrace]
  ring

/-- Settles O40: the trace grows by that of the four transitions, each of which is counted. -/
theorem initEventCount : Obligations.InitEventCount := by
  intro s t hok h
  obtain ⟨hlive, -⟩ := ifLive_next h
  obtain rfl := next_inj ((execInit_of_answersOk hlive hok).symm.trans h)
  have htrace : (s.trace ++ initTrace s).length = s.trace.length + (initTrace s).length :=
    List.length_append
  rw [length_initTrace] at htrace
  exact htrace

end Sys2Proof.Machine
end

section
/-! Addressing (43_addressing.md): the offsets of the orientations (R121), SET_ORIENTATION where every answer
is `ok` (R122), and the requests that begin with an address window, sent or refused (R123). -/

namespace Sys2Proof.Machine

/-! ## The offsets -/

/-- The gap is at most 320 lines, so its 16-bit value is exact. -/
theorem narrow16_gap_toNat (sizeY : U16) : (narrow16 (gap sizeY)).toNat = 320 - sizeY.toNat := by
  have hgap : gap sizeY = 320 - sizeY.toNat := rfl
  rw [narrow16, BitVec.toNat_ofNat, hgap, Nat.mod_eq_of_lt (by omega)]

/-- Settles O26: the shifted orientations shift by the gap, each on the axis of the parameter. -/
theorem orientationOffsetTable : Obligations.OrientationOffsetTable := by
  refine ⟨fun axis sizeY _ => ⟨rfl, rfl, narrow16 (gap sizeY), narrow16_gap_toNat sizeY, ?_, ?_⟩, rfl, rfl⟩
  · rintro rfl
    exact ⟨rfl, rfl⟩
  · rintro rfl
    exact ⟨rfl, rfl⟩

/-! ## SET_ORIENTATION -/

theorem sendOrientation_ok (o : Orientation) (s : State) (h : AnswersOk s) :
    OkRun s (commandTrace s .madctl ++ dataTrace s (.u8 [s.params.madctlByte.get o]))
      (sendOrientation o s) :=
  (xmitCommand_ok .madctl s h).andThen fun t hemits => by
    rw [← dataTrace_of_emits hemits]
    exact xmitData_u8_ok _ t (hemits.answersOk h)

/-- The state that a successful quiet run and its response leave. -/
theorem OkRun.pushResponse_eq_afterCalls {s : State} {es : List Event} {r : Run} (h : OkRun s es r) :
    r.st.pushResponse .ok = afterCalls s es (latchesAfter s.lvl es) .ok r.st.env := by
  have hresp := h.respond_eq_afterCalls
  rw [respond_eq, (response_ok_iff r).2 h.err] at hresp
  exact next_inj hresp

/-- A successful quiet run, then the register writes of R122, and the response to both. -/
theorem OkRun.respond_recordOrientation {s : State} {es : List Event} {r : Run} (h : OkRun s es r)
    (o : Orientation) :
    respond (r.andThen (recordOrientation o)) =
      .next ((afterCalls s es (latchesAfter s.lvl es) .ok r.st.env).setAddressing o
        (offsets s.params.offsetAxis o s.sizeY)) := by
  rw [andThen_of_ok h.err, recordOrientation, h.emits.params, h.emits.sizeY,
    ← h.pushResponse_eq_afterCalls]
  rfl

/-- Settles O24: both transmissions succeed, and then the three registers are written. -/
theorem setOrientationRecordsAndSends : Obligations.SetOrientationRecordsAndSends := by
  intro s o hlive hok
  have hlvl : latchesAfter s.lvl
      (commandTrace s .madctl ++ dataTrace s (.u8 [s.params.madctlByte.get o])) =
        latchesAfterXmit s.has .data s.lvl := by
    rw [latchesAfter_append, latchesAfter_commandTrace, latchesAfter_dataTrace,
      latchesAfterXmit_latchesAfterXmit]
  refine ⟨(sendOrientation o s).st.env, ?_⟩
  rw [← hlvl]
  exact (ifLive_live hlive _).trans ((sendOrientation_ok o s hok).respond_recordOrientation o)

/-! ## Requests that begin with an address window -/

/-- On a live instance the window is tested before anything else of such a request. -/
theorem windowRequest_of_overflow {s : State} {sx sy ex ey : U16} (hlive : s.released = false)
    (hover : WindowOverflows s sx sy ex ey) (o : Host.Outcome State Fault Refusal) :
    ifLive s (ifWindowFits sx sy ex ey s o) = .refused .coordinateOverflow :=
  (ifLive_live hlive _).trans (ifWindowFits_of_overflow hover o)

/-- Settles O28: each of the three requests begins with an address window. -/
theorem coordinateOverflowIsRefused : Obligations.CoordinateOverflowIsRefused :=
  fun _ _ _ _ _ _ _ hlive =>
    ⟨fun hover => ⟨windowRequest_of_overflow hlive hover _, windowRequest_of_overflow hlive hover _⟩,
      fun hover => windowRequest_of_overflow hlive hover _⟩

/-- Settles O29: the window fits, so SET_PIXEL is the pixel request of its two colour bytes. -/
theorem setPixelSendsWindowAndColour : Obligations.SetPixelSendsWindowAndColour := by
  intro s x y color hlive hok hfits
  have hrun : OkRun s (windowTrace s x y x y ++ commandTrace s .ramwr ++ wordTrace s color) _ :=
    sendPixels_u8_ok x y x y (be16 color) s hok
  refine ⟨(sendPixels x y x y (.u8 (be16 color)) s).st.env, ?_⟩
  rw [← latchesAfter_pixelTrace s x y x y (.u8 (be16 color))]
  exact ((ifLive_live hlive _).trans (ifWindowFits_of_fits hfits _)).trans hrun.respond_eq_afterCalls

end Sys2Proof.Machine
end

section
/-! The pixel requests (44_pixel_api.md) that send no window: SET_SCROLL_OFFSET (R135), SET_TEARING_EFFECT
(R136) and RELEASE (R138); and where an instruction is refused (60_exceptions.md R166). -/

namespace Sys2Proof.Machine

/-! ## A command and its data -/

theorem xmitCommandThenData_ok (c : Command) (p : List U8) (s : State) (h : AnswersOk s) :
    OkRun s (commandTrace s c ++ dataTrace s (.u8 p)) ((xmitCommand c s).andThen (xmitData (.u8 p))) :=
  (xmitCommand_ok c s h).andThen fun t hemits => by
    rw [← dataTrace_of_emits hemits]
    exact xmitData_u8_ok p t (hemits.answersOk h)

/-- The data transmission comes last, so it decides the latches of DC and CS. -/
theorem latchesAfter_commandThenDataTrace (s : State) (c : Command) (src : Source) (l : Latches) :
    latchesAfter l (commandTrace s c ++ dataTrace s src) = latchesAfterXmit s.has .data l := by
  rw [latchesAfter_append, latchesAfter_commandTrace, latchesAfter_dataTrace,
    latchesAfterXmit_latchesAfterXmit]

theorem respond_xmitCommand (c : Command) (s : State) (h : AnswersOk s) :
    respond (xmitCommand c s) =
      .next (afterCalls s (commandTrace s c) (latchesAfterXmit s.has .cmd s.lvl) .ok
        (xmitCommand c s).st.env) := by
  rw [(xmitCommand_ok c s h).respond_eq_afterCalls, latchesAfter_commandTrace]

theorem respond_xmitCommandThenData (c : Command) (p : List U8) (s : State) (h : AnswersOk s) :
    respond ((xmitCommand c s).andThen (xmitData (.u8 p))) =
      .next (afterCalls s (commandTrace s c ++ dataTrace s (.u8 p))
        (latchesAfterXmit s.has .data s.lvl) .ok
        ((xmitCommand c s).andThen (xmitData (.u8 p))).st.env) := by
  rw [(xmitCommandThenData_ok c p s h).respond_eq_afterCalls, latchesAfter_commandThenDataTrace]

/-! ## SET_SCROLL_OFFSET, SET_TEARING_EFFECT and RELEASE -/

/-- Settles O34: the request is VSCAD and then the offset's two bytes. -/
theorem setScrollOffsetSendsCommandAndOffset : Obligations.SetScrollOffsetSendsCommandAndOffset :=
  fun s offset hlive hok =>
    ⟨_, (ifLive_live hlive _).trans (respond_xmitCommandThenData .vscad (be16 offset) s hok)⟩

/-- Settles O35: one transmission for Off, a command and its flag byte for the other two modes, and no
meaning for mode 3. -/
theorem setTearingEffectByMode : Obligations.SetTearingEffectByMode := by
  intro s hlive
  refine ⟨fun hok => ⟨?off, ?vertical, ?both⟩, ?reserved⟩
  case off => exact ⟨_, (ifLive_live hlive _).trans (respond_xmitCommand .teoff s hok)⟩
  case vertical =>
    exact ⟨_, (ifLive_live hlive _).trans (respond_xmitCommandThenData .teon [0x00] s hok)⟩
  case both =>
    exact ⟨_, (ifLive_live hlive _).trans (respond_xmitCommandThenData .teon [0x01] s hok)⟩
  case reserved => exact ifLive_live hlive _

/-- Settles O37: on a live instance RELEASE only writes the flag and responds, whatever the environment. -/
theorem releaseSetsTheFlagAndMakesNoCall : Obligations.ReleaseSetsTheFlagAndMakesNoCall :=
  fun _ hlive => ifLive_live hlive _

/-! ## Refusals -/

/-- With positive extents and ends that fit, the window decides about a blit (R134). -/
theorem blit_of_window_overflow {s : State} {sx sy dx dy : U16} {data : List U8} (hdx : dx ≠ 0)
    (hdy : dy ≠ 0) (hex : blitEnd sx dx < 65536) (hey : blitEnd sy dy < 65536)
    (hover : WindowOverflows s sx sy (sx + dx - 1) (sy + dy - 1)) :
    blit sx sy dx dy data s = .refused .coordinateOverflow := by
  have hfits : (fits16 (blitEnd sx dx) && fits16 (blitEnd sy dy)) = true := by
    rw [Bool.and_eq_true, fits16_iff, fits16_iff]
    exact ⟨hex, hey⟩
  rw [blit, if_neg (not_or.2 ⟨hdx, hdy⟩), if_pos hfits, narrow16_blitEnd hdx, narrow16_blitEnd hdy,
    ifWindowFits_of_overflow hover]

/-- A blit of the right length without a meaningful window is refused: by its extents, by its ends, or by
a coordinate sum, tested in that order. -/
theorem execBlitPixels_of_refused {s : State} {sx sy dx dy : U16} {data : List U8}
    (hlive : s.released = false) (h : BlitRefused s sx sy dx dy data) :
    ∃ r, exec (.blitPixels sx sy dx dy data) s = .refused r := by
  obtain ⟨hlen, hrow⟩ := h
  rw [execBlitPixels_of_length hlive hlen]
  by_cases hzero : dx = 0 ∨ dy = 0
  · exact ⟨_, blit_of_zero_extent hzero⟩
  obtain ⟨hdx, hdy⟩ := not_or.1 hzero
  by_cases hend : 65536 ≤ blitEnd sx dx ∨ 65536 ≤ blitEnd sy dy
  · exact ⟨_, blit_of_end_overflow hdx hdy hend⟩
  obtain ⟨hex, hey⟩ := not_or.1 hend
  obtain hx | hy | hx | hy | hover := hrow
  · exact absurd hx hdx
  · exact absurd hy hdy
  · exact absurd hx hex
  · exact absurd hy hey
  · exact ⟨_, blit_of_window_overflow hdx hdy (Nat.lt_of_not_le hex) (Nat.lt_of_not_le hey) hover⟩

/-- A request that meets a row of R166's table is refused: the released flag is tested first, and then
only the window requests and SET_TEARING_EFFECT have a row of their own. -/
theorem exec_refused_of_refusedByRule {i : Instr} {s : State} (h : RefusedByRule s i) :
    ∃ r, exec i s = .refused r := by
  cases hrel : s.released with
  | true => exact ⟨_, exec_of_released hrel i⟩
  | false =>
    have hdead : s.released ≠ true := Bool.eq_false_iff.1 hrel
    cases i with
    | setAddressWindow sx sy ex ey =>
      exact ⟨_, windowRequest_of_overflow hrel (h.resolve_left hdead) _⟩
    | setPixel x y c => exact ⟨_, windowRequest_of_overflow hrel (h.resolve_left hdead) _⟩
    | setPixels sx sy ex ey colors =>
      exact ⟨_, windowRequest_of_overflow hrel (h.resolve_left hdead) _⟩
    | blitPixels sx sy dx dy data => exact execBlitPixels_of_refused hrel (h.resolve_left hdead)
    | setTearingEffect m =>
      obtain rfl : m = .reserved := h.resolve_left hdead
      exact ⟨_, ifLive_live hrel _⟩
    | _ => exact absurd h hdead

/-- Settles O8: a row of the table refuses, and without one there is a next state. -/
theorem refusedExactlyWhereTheRuleSays : Obligations.RefusedExactlyWhereTheRuleSays :=
  fun _ _ => ⟨exec_refused_of_refusedByRule, exec_next_of_not_refused⟩

end Sys2Proof.Machine
end

section
/-! Errors as responses (60_exceptions.md): the kinds the calls of a request can report (R152), the errors no
call causes (R80, R134), and the one that decides the response (R155 to R157). -/

namespace Sys2Proof.Machine

/-! ## The kinds of failed calls -/

/-- A failed call is a power line's, which no transmission drives, or one of a transmission, which
SET_BACKLIGHT never makes; the kind says which (R152). -/
theorem errKind_cases {f : Event} {k : Err} (h : f.errKind = some k) :
    (¬ IsXmitEvent f ∧ ∃ e, k = .pin e) ∨
      (¬ IsBacklightEvent f ∧ (k = .busWriteFailed ∨ k = .dcFailed ∨ k = .csFailed)) := by
  cases f with
  | delay n => cases h
  | bus bs a =>
    cases a with
    | ok => cases h
    | fail => exact .inr ⟨id, .inl (Option.some.inj h).symm⟩
  | pin l v a =>
    cases a with
    | ok => cases l <;> cases h
    | fail e =>
      cases l with
      | rst => exact .inl ⟨id, e, (Option.some.inj h).symm⟩
      | bl => exact .inl ⟨id, e, (Option.some.inj h).symm⟩
      | dc => exact .inr ⟨id, .inr (.inl (Option.some.inj h).symm)⟩
      | cs => exact .inr ⟨id, .inr (.inr (Option.some.inj h).symm)⟩

theorem errKind_of_isXmitEvent {f : Event} {k : Err} (hf : IsXmitEvent f) (hk : f.errKind = some k) :
    k = .busWriteFailed ∨ k = .dcFailed ∨ k = .csFailed :=
  ((errKind_cases hk).resolve_left fun h => h.1 hf).2

theorem errKind_of_isBacklightEvent {f : Event} {k : Err} (hf : IsBacklightEvent f)
    (hk : f.errKind = some k) : ∃ e, k = .pin e :=
  ((errKind_cases hk).resolve_right fun h => h.1 hf).2

/-- The unsupported format is found without a call (R80). -/
theorem errKind_ne_formatNotImplemented (f : Event) : f.errKind ≠ some .formatNotImplemented := by
  intro h
  obtain ⟨-, e, hk⟩ | ⟨-, hk | hk | hk⟩ := errKind_cases h <;> cases hk

/-- A failed call of an instruction reports a kind its row allows. -/
theorem mayRaise_of_event {i : Instr} {f : Event} {k : Err} (s : State) (hf : eventsOf i f)
    (hk : f.errKind = some k) : mayRaise s i k := by
  cases i with
  | init =>
    rintro rfl
    exact errKind_ne_formatNotImplemented f hk
  | setBacklight b => exact errKind_of_isBacklightEvent hf hk
  | release => exact hf.elim
  | blitPixels sx sy dx dy data =>
    exact (errKind_of_isXmitEvent hf hk).imp_right (Or.imp_right .inl)
  | xmitData src => exact (errKind_of_isXmitEvent hf hk).imp_right (Or.imp_right .inl)
  | _ => exact errKind_of_isXmitEvent hf hk

/-! ## The errors no call causes -/

/-- The two errors of the block's own: the unsupported format, and a blit of a wrong length. -/
theorem ownErrorOf_cases {s : State} {i : Instr} {k : Err} (h : ownErrorOf s i k) :
    (k = .formatNotImplemented ∧ ∃ p, i = .xmitData (.unsupported p)) ∨
      (k = s.params.eBlitLen ∧ ∃ sx sy dx dy data,
        i = .blitPixels sx sy dx dy data ∧ data.length ≠ dx.toNat * dy.toNat * 2) := by
  cases i with
  | xmitData src =>
    obtain ⟨hk, p, rfl⟩ := h
    exact .inl ⟨hk, p, rfl⟩
  | blitPixels sx sy dx dy data => exact .inr ⟨h.1, sx, sy, dx, dy, data, rfl, h.2⟩
  | _ => exact h.elim

theorem mayRaise_of_ownErrorOf {s : State} {i : Instr} {k : Err} (h : ownErrorOf s i k) :
    mayRaise s i k := by
  obtain ⟨rfl, p, rfl⟩ | ⟨rfl, sx, sy, dx, dy, data, rfl, -⟩ := ownErrorOf_cases h
  · exact .inr (.inr (.inr rfl))
  · exact .inr (.inr (.inr rfl))

/-- The length test comes before any call (R134). -/
theorem trace_of_blit_wrong_length {s t : State} {sx sy dx dy : U16} {data : List U8}
    (h : exec (.blitPixels sx sy dx dy data) s = .next t)
    (hlen : data.length ≠ dx.toNat * dy.toNat * 2) : t.trace = s.trace := by
  obtain ⟨-, ⟨-, rfl⟩ | ⟨hright, -⟩⟩ := execBlitPixels_next h
  · rfl
  · exact absurd hright hlen

/-! ## The error that decides the response -/

/-- A request responds once, so its response names the error its run ended with. -/
theorem RequestDoes.err_of_response {s t : State} {es : List Event} {err : Option Err}
    {P : Event → Prop} {X : Err → Prop} {k : Err} (hd : RequestDoes s t es err P X)
    (h : t.responses = s.responses ++ [.err k]) : err = some k := by
  have hresp := List.append_cancel_left (hd.resp.symm.trans h)
  cases err with
  | none => simp [Run.response] at hresp
  | some k' => simpa [Run.response] using hresp

/-- Settles O43: the error is that of a call the instruction makes, or one of its own. -/
theorem errorKindsByRequest : Obligations.ErrorKindsByRequest := by
  intro i s t k h hresp
  obtain ⟨es, err, hd⟩ := exec_does i s t h
  obtain rfl := hd.err_of_response hresp
  obtain ⟨pre, f, post, rfl, -, -, hk, -⟩ | ⟨hown, -⟩ := hd.ends
  · exact mayRaise_of_event s (hd.events f (by simp)) hk
  · exact mayRaise_of_ownErrorOf hown

/-- Settles O42: by how the run ended, with no error, with a failed call's, or with one of its own. -/
theorem firstFailureDecidesTheResponse : Obligations.FirstFailureDecidesTheResponse := by
  intro i s t h
  obtain ⟨es, err, hd⟩ := exec_does i s t h
  refine ⟨es, _, hd.trace, hd.resp, ?_⟩
  cases err with
  | none => exact .inr ⟨hd.ends, .inl rfl⟩
  | some k =>
    obtain ⟨pre, f, post, hes, hpre, hf, hk, hpost, hnone⟩ | ⟨hown, hclean⟩ := hd.ends
    · exact .inl ⟨pre, f, post, k, hes, hpre, hf, hk, rfl, hpost, hnone⟩
    · refine .inr ⟨hclean, .inr ?_⟩
      obtain ⟨rfl, hsrc⟩ | ⟨rfl, sx, sy, dx, dy, data, rfl, hlen⟩ := ownErrorOf_cases hown
      · exact .inl ⟨rfl, hsrc⟩
      · have hnocall : es = [] :=
          List.append_right_eq_self.1 (hd.trace.symm.trans (trace_of_blit_wrong_length h hlen))
        exact .inr ⟨rfl, hnocall, sx, sy, dx, dy, data, rfl, hlen⟩

end Sys2Proof.Machine
end
